-- ==== Sys2Proof/Word.lean ====
section
/-! DEFINITION. The widths of the engine's data (spec/00_scope.md R7, R9) and the four-word tuple that holds the digest
state and the working variables (spec/10_state.md R16, R17). -/

namespace Sys2Proof

/-- A byte: an unsigned 8-bit value (R9). -/
abbrev Byte := BitVec 8

/-- A word, `u32`: an unsigned 32-bit value; `+` wraps modulo 2^32 (R9, R10). -/
abbrev Word := BitVec 32

/-- The command word CMD (R48). -/
abbrev CmdWord := BitVec 16

/-- The data payload DIN (R36). -/
abbrev Payload := BitVec 512

/-- The response data RSP_DATA (R40). -/
abbrev RspData := BitVec 128

/-- The bit-length counter LEN and the trailer value (R26, R68). -/
abbrev BitLen := BitVec 64

/-- A block: exactly 64 bytes (R13). -/
abbrev Block := Vector Byte 64

/-- The sixteen words M[0..15] of a block (R37). -/
abbrev BlockWords := Vector Word 16

/-- A digest: exactly 16 bytes (R13). -/
abbrev Digest := Vector Byte 16

/-- Four words: the digest state H = (A, B, C, D) of R16, or the working variables (a, b, c, d) of R17. -/
structure Quad where
  a : Word
  b : Word
  c : Word
  d : Word
deriving DecidableEq, Repr, Inhabited

end Sys2Proof
end

