-- ==== Sys2Proof/Syntax.lean ====
section
/-! DEFINITION. The engine's four commands as syntax (spec/30_encoding.md R48 to R52, spec/44_commands.md R101 to R105),
the command as the host sends it, and the causes for which a command is rejected (spec/60_exceptions.md R115). -/

namespace Sys2Proof

/-- A command as it stands on the command port: the word CMD and the payload DIN sent together with it (R48, R60). -/
structure Command where
  cmd : CmdWord
  din : Payload
deriving DecidableEq, Repr

/-- The four commands, one constructor for each row of spec/opcode_table.json. -/
inductive Instr where
  /-- INIT, start a computation (R101). -/
  | init
  /-- UPDATE n, absorb the first n bytes of the payload; n is the 7-bit field NBYTES (R50, R102). -/
  | update (n : BitVec 7) (din : Payload)
  /-- FINAL, pad, compress and latch the digest (R104). -/
  | final
  /-- READ, return the digest (R105). -/
  | read
deriving DecidableEq, Repr

/-- The four legal opcodes, by name (R52). -/
inductive Opcode where
  | init
  | update
  | final
  | read
deriving DecidableEq, Repr

/-- Why a command is rejected (R115). -/
inductive Cause where
  /-- Code 1: OP is 0x0 or 0x5 to 0xF (R53). -/
  | illegalOpcode
  /-- Code 2: RSVD is not 0, or NBYTES is not legal for the opcode (R51, R54). -/
  | reservedField
  /-- Code 3: a legally encoded command that the current STATE does not allow (R100). -/
  | sequence
deriving DecidableEq, Repr

end Sys2Proof
end

