-- ==== Sys2Proof/WellFormed.lean ====
section
/-! DEFINITION. Which terms of `Instr` are commands of the engine (spec/30_encoding.md R50, R54). -/

namespace Sys2Proof

/-- An UPDATE carries 0 to 64 bytes; 65 to 127 are reserved (R54). The other commands have no operand to check. -/
def Instr.wellFormed : Instr → Bool
  | .init => true
  | .update n _ => decide (n.toNat ≤ 64)
  | .final => true
  | .read => true

end Sys2Proof
end

