-- ==== Sys2Proof/Decode.lean ====
section
/-! DEFINITION. The decoder, total on every command word (spec/30_encoding.md R48 to R55), the encoder written from the
same encoding table (R52), and the opcode table itself as rows of mask and pattern. -/

namespace Sys2Proof

/-- OP is CMD[3:0] (R49). -/
def opField (w : CmdWord) : BitVec 4 := w.extractLsb' 0 4

/-- NBYTES is CMD[10:4] (R50). -/
def nbytesField (w : CmdWord) : BitVec 7 := w.extractLsb' 4 7

/-- RSVD is CMD[15:11] (R51). -/
def rsvdField (w : CmdWord) : BitVec 5 := w.extractLsb' 11 5

/-- The opcode map (R52); OP 0x0 and 0x5 to 0xF name no command (R53). -/
def opcodeOf (op : BitVec 4) : Option Opcode :=
  if op = 1 then some .init
  else if op = 2 then some .update
  else if op = 3 then some .final
  else if op = 4 then some .read
  else none

/-- The opcode of a command. -/
def Instr.opcode : Instr → Opcode
  | .init => .init
  | .update _ _ => .update
  | .final => .final
  | .read => .read

/-- The field checks that follow the opcode, in the order of R55: RSVD first, then NBYTES. -/
def decodeFields (op : Opcode) (c : Command) : Except Cause Instr :=
  if rsvdField c.cmd ≠ 0 then .error .reservedField
  else match op with
    | .init => if nbytesField c.cmd = 0 then .ok .init else .error .reservedField
    | .update =>
      if (nbytesField c.cmd).toNat ≤ 64 then .ok (.update (nbytesField c.cmd) c.din) else .error .reservedField
    | .final => if nbytesField c.cmd = 0 then .ok .final else .error .reservedField
    | .read => if nbytesField c.cmd = 0 then .ok .read else .error .reservedField

/-- The decode of an arbitrary command word (R55): a command, or the cause of its rejection. An illegal opcode is
found first, whatever the other fields hold (R53, R116). The payload is an operand of UPDATE alone (R58). -/
def decode (c : Command) : Except Cause Instr :=
  match opcodeOf (opField c.cmd) with
  | none => .error .illegalOpcode
  | some op => decodeFields op c

/-- A command word from its three fields (R48). -/
def packFields (rsvd : BitVec 5) (nbytes : BitVec 7) (op : BitVec 4) : CmdWord := rsvd ++ nbytes ++ op

/-- The command a host sends for an instruction (R52). The assembler sets the ignored payload of INIT, FINAL and READ
to zero (R61). -/
def encode : Instr → Command
  | .init => ⟨packFields 0 0 1, 0⟩
  | .update n din => ⟨packFields 0 n 2, din⟩
  | .final => ⟨packFields 0 0 3, 0⟩
  | .read => ⟨packFields 0 0 4, 0⟩

/-- A command from its bits, numbered from the least significant bit of CMD: CMD is bits 15..0 and DIN the 512 bits
above it. Bits from `nbits` up are 0. -/
def commandOfBits (nbits w : Nat) : Command :=
  ⟨BitVec.ofNat 16 (w % 2 ^ nbits), BitVec.ofNat 512 ((w % 2 ^ nbits) / 2 ^ 16)⟩

/-- The instruction the decoder reads from the bits of a row of spec/opcode_table.json. -/
def decodeTableWord (nbits w : Nat) : Option Instr :=
  match decode (commandOfBits nbits w) with
  | .ok i => some i
  | .error _ => none

/-- A row of the opcode table (R52): a word is of the row when its bits under `mask` are `pattern`. -/
structure OpcodeRow where
  op : Opcode
  mask : CmdWord
  pattern : CmdWord
deriving DecidableEq, Repr

/-- The opcode table of R52 and spec/opcode_table.json, its "mask" and "match" columns. -/
def opcodeTable : List OpcodeRow :=
  [⟨.init, 0xFFFF, 0x0001⟩, ⟨.update, 0xF80F, 0x0002⟩, ⟨.final, 0xFFFF, 0x0003⟩, ⟨.read, 0xFFFF, 0x0004⟩]

/-- A word has the bits a row fixes. -/
def OpcodeRow.matchesWord (r : OpcodeRow) (w : CmdWord) : Bool := w &&& r.mask == r.pattern

end Sys2Proof
end

