-- ==== Sys2Proof/Config.lean ====
section
/-! DEFINITION. The values the spec leaves open, as constants with no body: nothing can be proved of them, so whatever
is proved holds for every value. The argument is the index of the draw (the counter `State.free`), so that two draws
need not agree. The spec leaves open whether two engine instances hold equal values there; the index is all a draw
depends on, so two draws at equal indices, in two instances as well, are equal (DESIGN CHOICE). Log entries 2, 3 and
12. -/

namespace Sys2Proof

/-- BUF after FINAL: "BUF, BCNT, LEN <- unspecified" (R104, U5). -/
opaque Config.freeBuf : Nat → Block

/-- BCNT after FINAL (R104, U5); any value of the 6-bit register. -/
opaque Config.freeBcnt : Nat → Fin 64

/-- LEN after FINAL (R104, U5). -/
opaque Config.freeLen : Nat → BitLen

/-- The working variables a, b, c, d after a compression pass: "Their values between passes are unspecified" (R17, U6). -/
opaque Config.freeWork : Nat → Quad

end Sys2Proof
end

