-- ==== Sys2Proof/Machine/State.lean ====
section
/-! DEFINITION. The machine's state as plain data: every item of spec/10_state.md R15, the command and response channel
of spec/30_encoding.md R60, and the host's side of the ports. -/

namespace Sys2Proof.Machine

/-- The 2-bit controller register STATE (R21). -/
inductive Fsm where
  /-- Code 0: after reset, no computation started. -/
  | idle
  /-- Code 1: a computation is open and accepts message bytes. -/
  | absorb
  /-- Code 2: the digest is latched and readable. -/
  | done
  /-- Code 3: a command was rejected; only reset leaves this state. -/
  | error
deriving DecidableEq, Repr

/-- A response (RSP_OK, RSP_DATA) (R59). -/
structure Response where
  ok : Bool
  data : RspData
deriving DecidableEq, Repr

/-- Where the command and response channels stand (R131). -/
inductive Channel where
  /-- CMD_READY = 1: no command is in flight and no response is pending. -/
  | ready
  /-- A command has been accepted and has not completed; the engine holds the CMD and DIN it sampled (R30, R46). -/
  | busy (c : Command)
  /-- RSP_VALID = 1: the command has completed and its response has not been taken. -/
  | responding (r : Response)
deriving DecidableEq, Repr

/-- The engine's input ports in one step (R60). The clock is not modelled. Log entry 6. -/
structure PortIn where
  /-- RST_N, active low: `false` asserts reset (R128). -/
  rstN : Bool
  /-- CMD_VALID: the host offers a command. -/
  cmdValid : Bool
  /-- CMD and DIN. -/
  command : Command
  /-- RSP_READY: the host takes a response. -/
  rspReady : Bool
deriving DecidableEq, Repr

/-- Why a step stops. -/
inductive Fault where
  /-- ERRCODE holds one of the codes 4 to 7, which are never written: "A model that sees one has left the spec: fault"
  (U9). Raised by `step`, whatever the channel does, unless RST_N is asserted. Safe: no run from reset reaches it. -/
  | reservedErrcode
deriving DecidableEq, Repr

/-- Why an instruction has no meaning. -/
inductive Refusal where
  /-- Raised by an arm of `exec` for an instruction not modelled yet; no arm raises it now. Safe. -/
  | notModelled (mnemonic : String)
deriving DecidableEq, Repr

/-- The whole machine. -/
structure State where
  /-- The working variables a, b, c, d (R17). Outside a pass their values are unspecified. -/
  work : Quad
  /-- The digest state A, B, C, D (R16). -/
  H : Quad
  /-- STATE (R21). -/
  fsm : Fsm
  /-- ERRCODE (R22). -/
  errcode : BitVec 3
  /-- BUF, the framing buffer (R24). -/
  buf : Block
  /-- BCNT, 6 bits, 0..63 (R25). -/
  bcnt : Fin 64
  /-- LEN (R26). -/
  len : BitLen
  /-- DIGEST, digest byte 0 first (R27). -/
  digest : Digest
  /-- The command and response channels (R60, R131). -/
  channel : Channel
  /-- What the host drives on the input ports in the coming steps, the next step's values first. Past the end of the
  list the host does nothing. -/
  inputs : List PortIn
  /-- The responses the host has taken, oldest first (D31). -/
  received : List Response
  /-- The model's own: the index of the next free value (log entry 2). -/
  free : Nat
deriving DecidableEq, Repr

/-- The machine right after reset (R32, R128, R129): STATE is IDLE, ERRCODE is NONE, no response is pending. The spec
gives the other registers no value: they hold zero (DESIGN CHOICE, log entry 1). The host has done nothing yet. -/
def State.reset : State where
  work := ⟨0, 0, 0, 0⟩
  H := ⟨0, 0, 0, 0⟩
  fsm := .idle
  errcode := 0
  buf := Vector.replicate 64 0
  bcnt := 0
  len := 0
  digest := Vector.replicate 16 0
  channel := .ready
  inputs := []
  received := []
  free := 0

end Sys2Proof.Machine
end

