-- ==== Sys2Proof/Machine/Flags.lean ====
section
/-! DEFINITION. The engine has no arithmetic flags (spec/60_exceptions.md R121); its only status is STATE and ERRCODE,
which the host reads as STATUS (spec/10_state.md R21 to R23). -/

namespace Sys2Proof.Machine

/-- The 2-bit code of a controller state (R21). -/
def Fsm.code : Fsm → BitVec 2
  | .idle => 0
  | .absorb => 1
  | .done => 2
  | .error => 3

/-- The 3-bit ERRCODE of a cause (R115). -/
def causeCode : Cause → BitVec 3
  | .illegalOpcode => 1
  | .reservedField => 2
  | .sequence => 3

/-- STATUS: STATE in [1:0], ERRCODE in [4:2], and [7:5] hardwired 0 (R23). Reading it changes nothing. -/
def State.status (s : State) : BitVec 8 := (0 : BitVec 3) ++ s.errcode ++ s.fsm.code

/-- Codes 4 to 7 of ERRCODE are reserved and never written (R22, R115). -/
def reservedErrcode (e : BitVec 3) : Bool := decide (4 ≤ e.toNat)

/-- The legality table: whether a STATE allows a command (R100). -/
def legal : Opcode → Fsm → Bool
  | .init, .idle => true
  | .init, .absorb => false
  | .init, .done => true
  | .init, .error => false
  | .update, .idle => false
  | .update, .absorb => true
  | .update, .done => false
  | .update, .error => false
  | .final, .idle => false
  | .final, .absorb => true
  | .final, .done => false
  | .final, .error => false
  | .read, .idle => false
  | .read, .absorb => false
  | .read, .done => true
  | .read, .error => false

end Sys2Proof.Machine
end

