-- ==== Sys2Proof/Machine/Operands.lean ====
section
/-! DEFINITION. Byte order in one place (spec/20_memory.md R36 to R40, spec/00_scope.md R11): how words, the trailer,
the payload and the response are made of bytes. -/

namespace Sys2Proof.Machine

/-- Byte `k` of a bit string is its bits `[8k+7 : 8k]` (R11, R36, R40). -/
def byteOf {w : Nat} (v : BitVec w) (k : Nat) : Byte := v.extractLsb' (8 * k) 8

/-- The first `count` bytes of a bit string, byte 0 first. -/
def bytesLe {w : Nat} (count : Nat) (v : BitVec w) : List Byte := (List.range count).map (byteOf v)

/-- The bit string whose byte `k` is the list's byte `k`; bytes past the list are 0. -/
def packLe (w : Nat) (bs : List Byte) : BitVec w := bs.foldr (fun b v => (v <<< 8) ||| b.setWidth w) 0

/-- `bytes_le32` (R11). -/
def bytesLe32 (w : Word) : List Byte := bytesLe 4 w

/-- `bytes_le64` (R11, R38). -/
def bytesLe64 (v : BitLen) : List Byte := bytesLe 8 v

/-- `le32` of four bytes, the byte at the lowest index first (R11). -/
def le32 (b0 b1 b2 b3 : Byte) : Word :=
  b0.setWidth 32 ||| (b1.setWidth 32 <<< 8) ||| (b2.setWidth 32 <<< 16) ||| (b3.setWidth 32 <<< 24)

/-- `M[j] = le32(blk, 4j)` for j = 0..15 (R37). -/
def blockWords (blk : Block) : BlockWords :=
  Vector.ofFn fun j : Fin 16 => le32 blk[4 * j.val] blk[4 * j.val + 1] blk[4 * j.val + 2] blk[4 * j.val + 3]

/-- A byte list of length 64 as a block. (Past the end of a shorter list it reads 0; no definition of the model gives
it one. Irreducible, so that no proof compares 64 elements by accident.) -/
@[irreducible] def toBlock (bs : List Byte) : Block := Vector.ofFn fun i : Fin 64 => bs.getD i.val 0

/-- The message bytes an UPDATE of `n` bytes supplies: DIN bytes 0..n-1, in that order (R36, R58). -/
def payloadBytes (n : Nat) (din : Payload) : List Byte := bytesLe n din

/-- RSP_DATA of a digest: digest byte k is RSP_DATA[8k+7:8k] (R40). -/
def packDigest (d : Digest) : RspData := packLe 128 d.toList

end Sys2Proof.Machine
end

