-- ==== Sys2Proof/Machine/Compression.lean ====
section
/-! DEFINITION. The compression core (spec/42_compression.md R73 to R90): round functions, per-step parameters, one step,
and the whole pass. -/

namespace Sys2Proof.Machine

/-- The four round groups of 16 steps (R77). -/
inductive RoundGroup where
  | one
  | two
  | three
  | four
deriving DecidableEq, Repr

/-- `rotl32(x, s)` for `1 ≤ s ≤ 31` (R10). -/
def rotl32 (x : Word) (s : Nat) : Word := (x <<< s) ||| (x >>> (32 - s))

/-- F (R73). -/
def roundF (x y z : Word) : Word := (x &&& y) ||| (~~~x &&& z)

/-- G (R74). -/
def roundG (x y z : Word) : Word := (x &&& z) ||| (y &&& ~~~z)

/-- H_fn (R75). -/
def roundH (x y z : Word) : Word := x ^^^ y ^^^ z

/-- I (R76). -/
def roundI (x y z : Word) : Word := y ^^^ (x ||| ~~~z)

/-- The round group of a step: `floor(i/16) + 1` (R77). -/
def groupOf (i : Fin 64) : RoundGroup :=
  if i.val < 16 then .one else if i.val < 32 then .two else if i.val < 48 then .three else .four

/-- The round function of a group (R77). -/
def roundFn : RoundGroup → Word → Word → Word → Word
  | .one => roundF
  | .two => roundG
  | .three => roundH
  | .four => roundI

/-- The message index g(i), in its closed form (R78). -/
def msgIndex (i : Fin 64) : Fin 16 :=
  match groupOf i with
  | .one => Fin.ofNat 16 i.val
  | .two => Fin.ofNat 16 (1 + 5 * i.val)
  | .three => Fin.ofNat 16 (5 + 3 * i.val)
  | .four => Fin.ofNat 16 (7 * i.val)

/-- The rotation amounts S_1 to S_4 (R80). -/
def rotations : RoundGroup → Vector Nat 4
  | .one => #v[7, 12, 17, 22]
  | .two => #v[5, 9, 14, 20]
  | .three => #v[4, 11, 16, 23]
  | .four => #v[6, 10, 15, 21]

/-- s(i) = S_g[i mod 4] (R80). -/
def rotAmount (i : Fin 64) : Nat := (rotations (groupOf i))[i.val % 4]

/-- K[0..15] (R82). -/
def roundConstants0 : Vector Word 16 :=
  #v[0xd76aa478, 0xe8c7b756, 0x242070db, 0xc1bdceee, 0xf57c0faf, 0x4787c62a, 0xa8304613, 0xfd469501,
     0x698098d8, 0x8b44f7af, 0xffff5bb1, 0x895cd7be, 0x6b901122, 0xfd987193, 0xa679438e, 0x49b40821]

/-- K[16..31] (R82). -/
def roundConstants1 : Vector Word 16 :=
  #v[0xf61e2562, 0xc040b340, 0x265e5a51, 0xe9b6c7aa, 0xd62f105d, 0x02441453, 0xd8a1e681, 0xe7d3fbc8,
     0x21e1cde6, 0xc33707d6, 0xf4d50d87, 0x455a14ed, 0xa9e3e905, 0xfcefa3f8, 0x676f02d9, 0x8d2a4c8a]

/-- K[32..47] (R82). -/
def roundConstants2 : Vector Word 16 :=
  #v[0xfffa3942, 0x8771f681, 0x6d9d6122, 0xfde5380c, 0xa4beea44, 0x4bdecfa9, 0xf6bb4b60, 0xbebfbc70,
     0x289b7ec6, 0xeaa127fa, 0xd4ef3085, 0x04881d05, 0xd9d4d039, 0xe6db99e5, 0x1fa27cf8, 0xc4ac5665]

/-- K[48..63] (R82). -/
def roundConstants3 : Vector Word 16 :=
  #v[0xf4292244, 0x432aff97, 0xab9423a7, 0xfc93a039, 0x655b59c3, 0x8f0ccc92, 0xffeff47d, 0x85845dd1,
     0x6fa87e4f, 0xfe2ce6e0, 0xa3014314, 0x4e0811a1, 0xf7537e82, 0xbd3af235, 0x2ad7d2bb, 0xeb86d391]

/-- The round constant table K[0..63], a fixed table and no state (R28, R82; log entry 13). -/
def roundConstants : Vector Word 64 := roundConstants0 ++ roundConstants1 ++ roundConstants2 ++ roundConstants3

/-- `Step(i, (a, b, c, d), M)` with the role rotation `(a, b, c, d) <- (d, nb, b, c)` (R83, R84; log entry 13). -/
def roundStep (M : BlockWords) (v : Quad) (i : Fin 64) : Quad :=
  let f := roundFn (groupOf i) v.b v.c v.d
  let t := v.a + f + M[msgIndex i] + roundConstants[i]
  let nb := v.b + rotl32 t (rotAmount i)
  ⟨v.d, nb, v.b, v.c⟩

/-- Steps 0 to 63, each once, in increasing order (R20, R85). -/
def allSteps (M : BlockWords) (v : Quad) : Quad := (List.finRange 64).foldl (roundStep M) v

/-- The final addition, word by word, modulo 2^32 (R86). -/
def addQuad (x y : Quad) : Quad := ⟨x.a + y.a, x.b + y.b, x.c + y.c, x.d + y.d⟩

/-- `Compress((A, B, C, D), blk)` (R85): total, and a function of H and the block alone (R87, R89). Irreducible, so that
no proof unfolds 64 steps by accident; `unfold compress` opens it. -/
@[irreducible] def compress (H : Quad) (blk : Block) : Quad := addQuad H (allSteps (blockWords blk) H)

/-- The initial value IV (R29). -/
def iv : Quad := ⟨0x67452301, 0xEFCDAB89, 0x98BADCFE, 0x10325476⟩

end Sys2Proof.Machine
end

