-- ==== Sys2Proof/Machine/Padding.lean ====
section
/-! DEFINITION. The padder and block framer as functions of the message (spec/41_padding.md R63 to R72). -/

namespace Sys2Proof.Machine

/-- `zeros(n)` (R11). -/
def zeros (n : Nat) : List Byte := List.replicate n 0

/-- The padded tail as bytes: one block's worth when R < 56 (R66), two blocks' worth when R ≥ 56 (R67). -/
def paddedTail (tail : List Byte) (bitlen : BitLen) : List Byte :=
  let fill := if tail.length < 56 then 55 - tail.length else 119 - tail.length
  tail ++ [0x80] ++ zeros fill ++ bytesLe64 bitlen

/-- `PadTail(tail, bitlen)` for a tail of 0 to 63 bytes: one block (R66) or two (R67), never none (C4). -/
def padTail (tail : List Byte) (bitlen : BitLen) : List Block :=
  let p := paddedTail tail bitlen
  if tail.length < 56 then [toBlock p] else [toBlock (p.take 64), toBlock (p.drop 64)]

/-- `nfull = floor(L / 64)` (R64). -/
def fullCount (msg : List Byte) : Nat := msg.length / 64

/-- The full blocks: `msg[64k .. 64k+64)` for k = 0 .. nfull-1, in increasing k (R64). -/
def fullBlocks (msg : List Byte) : List Block :=
  (List.range (fullCount msg)).map fun k => toBlock ((msg.drop (64 * k)).take 64)

/-- The tail: `msg[64·nfull .. L)` (R65). -/
def tailBytes (msg : List Byte) : List Byte := msg.drop (64 * fullCount msg)

/-- The trailer value `(8·L) mod 2^64` (R68). -/
def bitLength (msg : List Byte) : BitLen := BitVec.ofNat 64 (8 * msg.length)

/-- `Pad(msg)` (R70): total on every byte sequence, the empty one included. -/
def pad (msg : List Byte) : List Block := fullBlocks msg ++ padTail (tailBytes msg) (bitLength msg)

end Sys2Proof.Machine
end

