-- ==== Sys2Proof/Machine/Serializer.lean ====
section
/-! DEFINITION. The digest serializer and the reference digest (spec/43_finalization.md R91 to R97). -/

namespace Sys2Proof.Machine

/-- `Serialize((A, B, C, D))`: 16 bytes, word order A, B, C, D, each word little-endian (R39, R91), written as the byte
map of R92. -/
def serialize (H : Quad) : Digest :=
  #v[byteOf H.a 0, byteOf H.a 1, byteOf H.a 2, byteOf H.a 3,
     byteOf H.b 0, byteOf H.b 1, byteOf H.b 2, byteOf H.b 3,
     byteOf H.c 0, byteOf H.c 1, byteOf H.c 2, byteOf H.c 3,
     byteOf H.d 0, byteOf H.d 1, byteOf H.d 2, byteOf H.d 3]

/-- The blocks folded into the digest state, in order. -/
def foldBlocks (H : Quad) (blks : List Block) : Quad := blks.foldl compress H

/-- `compute_digest(msg)` (R93): a total function of the bytes alone (R96), with no bound on the length (R97). -/
def computeDigest (msg : List Byte) : Digest := serialize (foldBlocks iv (pad msg))

end Sys2Proof.Machine
end

