-- ==== Sys2Proof/Machine/Ops.lean ====
section
/-! DEFINITION. The named operations the commands are made of: responding, taking an error, leaving it by reset,
absorbing bytes, and finishing the digest (spec/44_commands.md R99 to R104, spec/60_exceptions.md R114 to R118). -/

namespace Sys2Proof.Machine

/-- `respond(ok, data)`: the command's one response is offered (R12, R59). -/
def respond (ok : Bool) (data : RspData) (s : State) : State := { s with channel := .responding ⟨ok, data⟩ }

/-- Error entry, `raise Error(code)`: ERRCODE records the cause and STATE becomes ERROR; every other register keeps its
value (R114). -/
def errorEntry (cause : Cause) (s : State) : State := { s with errcode := causeCode cause, fsm := .error }

/-- A rejected command. In ERROR it changes no state (R117); elsewhere error entry runs (R114). Either way the response
is (0, 0) (R59). -/
def reject (cause : Cause) (s : State) : State :=
  if s.fsm = .error then respond false 0 s else respond false 0 (errorEntry cause s)

/-- Reset, the only way out of ERROR (R118): from any state, at any time, every register takes its reset value, a
command in flight is abandoned with no effect, and a pending response is withdrawn (R128, R140). What the host has
already received, and what it drives next, are the host's. -/
def resetEngine (s : State) : State :=
  { State.reset with inputs := s.inputs, received := s.received, free := s.free }

/-- A legally encoded command runs where the legality table allows it, and is rejected as SEQUENCE (code 3) elsewhere;
in ERROR it is rejected with no change (R99, R100, R117). -/
def whenLegal (op : Opcode) (s : State) (body : State → State) : State :=
  if legal op s.fsm then body s else reject .sequence s

/-- One compression pass over a block held by the engine: H takes the result, and the working variables are left with
unspecified values (R17, R85; log entry 3). -/
def passOver (blk : Block) (s : State) : State :=
  { s with H := compress s.H blk, work := Config.freeWork s.free, free := s.free + 1 }

/-- `BUF[BCNT] <- x` (R103). -/
def storeByte (x : Byte) (s : State) : State := { s with buf := s.buf.set s.bcnt.val x }

/-- A write of BCNT. -/
def setCount (n : Fin 64) (s : State) : State := { s with bcnt := n }

/-- `LEN <- LEN +64 8·n` (R26, R102). -/
def addBits (n : Nat) (s : State) : State := { s with len := s.len + BitVec.ofNat 64 (8 * n) }

/-- A write of STATE. -/
def setFsm (f : Fsm) (s : State) : State := { s with fsm := f }

/-- `DIGEST <- Serialize((A, B, C, D))` (R27, R91). -/
def latch (s : State) : State := { s with digest := serialize s.H }

/-- `AbsorbByte(x)` (R103): the block is compressed at the moment it becomes full. -/
def absorbByte (s : State) (x : Byte) : State :=
  let t := storeByte x s
  if s.bcnt.val = 63 then setCount 0 (passOver t.buf t) else setCount (s.bcnt + 1) t

/-- The bytes of one UPDATE, in order (R102). -/
def absorbBytes (s : State) (bs : List Byte) : State := bs.foldl absorbByte s

/-- The tail, `BUF[0..BCNT)` (R24, R65). -/
def State.tail (s : State) : List Byte := s.buf.toList.take s.bcnt.val

/-- The one or two final blocks, folded in order (R104). -/
def foldPasses (blks : List Block) (s : State) : State := blks.foldl (fun t blk => passOver blk t) s

/-- The final blocks are folded in, and DIGEST latches the serialized result (R104). -/
def latchDigest (s : State) : State := latch (foldPasses (padTail s.tail s.len) s)

/-- `BUF, BCNT, LEN <- unspecified` (R104; log entry 2). -/
def forgetFraming (s : State) : State :=
  { s with
    buf := Config.freeBuf s.free
    bcnt := Config.freeBcnt s.free
    len := Config.freeLen s.free
    free := s.free + 1 }

end Sys2Proof.Machine
end

