-- ==== Sys2Proof/Machine/Commands.lean ====
section
/-! DEFINITION. The meanings of the four commands (spec/44_commands.md R101 to R105). Each is the whole of R99 and R100
for its command: the rejection in ERROR, the SEQUENCE error, and the effect. -/

namespace Sys2Proof.Machine

/-- INIT's effect (R101). BUF and DIGEST are not written. -/
def startComputation (s : State) : State :=
  respond true 0 { s with H := iv, bcnt := 0, len := 0, fsm := .absorb }

/-- UPDATE's effect: absorb the payload's first n bytes, add 8·n to LEN modulo 2^64 (R102, R110). -/
def absorbPayload (n : Nat) (din : Payload) (s : State) : State :=
  respond true 0 (addBits n (absorbBytes s (payloadBytes n din)))

/-- FINAL's effect (R104). -/
def finishComputation (s : State) : State :=
  respond true 0 (setFsm .done (forgetFraming (latchDigest s)))

/-- READ's effect: respond with DIGEST; no state changes (R105). -/
def returnDigest (s : State) : State := respond true (packDigest s.digest) s

/-- INIT (R101): executes in IDLE and DONE. -/
def execInit (s : State) : Host.Outcome State Fault Refusal := .next (whenLegal .init s startComputation)

/-- UPDATE n (R102): executes in ABSORB. A reserved byte count, 65 to 127, is RESERVED_FIELD (code 2), which comes
before SEQUENCE (R54, R116). -/
def execUpdate (n : BitVec 7) (din : Payload) (s : State) : Host.Outcome State Fault Refusal :=
  if 64 < n.toNat then .next (reject .reservedField s)
  else .next (whenLegal .update s (absorbPayload n.toNat din))

/-- FINAL (R104): executes in ABSORB. -/
def execFinal (s : State) : Host.Outcome State Fault Refusal := .next (whenLegal .final s finishComputation)

/-- READ (R105): executes in DONE. -/
def execRead (s : State) : Host.Outcome State Fault Refusal := .next (whenLegal .read s returnDigest)

end Sys2Proof.Machine
end

