-- ==== Sys2Proof/Machine/Dispatch.lean ====
section
/-! DEFINITION. One arm for each command (spec/44_commands.md R99, the case over op). -/

namespace Sys2Proof.Machine

def exec (i : Instr) (s : State) : Host.Outcome State Fault Refusal :=
  match i with
  | .init => Sys2Proof.Machine.execInit s
  | .update n din => Sys2Proof.Machine.execUpdate n din s
  | .final => Sys2Proof.Machine.execFinal s
  | .read => Sys2Proof.Machine.execRead s

end Sys2Proof.Machine
end

