-- ==== Sys2Proof/Machine/Port.lean ====
section
/-! DEFINITION. The ports and the handshake (spec/30_encoding.md R60, spec/70_reset_and_hazards.md R128, R131, R139,
R140), and `Execute(w, DIN)` of spec/44_commands.md R99. Log entries 5 and 6. -/

namespace Sys2Proof.Machine

/-- `Execute(w, DIN)` (R99): a word the decoder rejects is taken as an error (in ERROR, rejected with no change), and a
decoded command runs. -/
def execute (c : Command) (s : State) : Host.Outcome State Fault Refusal :=
  match decode c with
  | .ok i => exec i s
  | .error cause => .next (reject cause s)

/-- CMD_READY: 0 from the acceptance of a command until its response has been taken (R60, R131). The spec says it is 1
once RST_N is released (R128) and leaves its value open while RST_N is held low: there the line does not depend on RST_N
and reads 1 after the first step of a reset (DESIGN CHOICE, log entry 7). -/
def State.cmdReady (s : State) : Bool := s.channel == .ready

/-- The response on the response channel, if one is offered: RSP_VALID, RSP_OK and RSP_DATA (R60). -/
def State.response (s : State) : Option Response :=
  match s.channel with
  | .ready => none
  | .busy _ => none
  | .responding r => some r

/-- RSP_VALID (R60). -/
def State.rspValid (s : State) : Bool := s.response.isSome

/-- The input ports when the host does nothing: RST_N released, no command offered, no response taken. The CMD and DIN
lines then mean nothing (R132). -/
def PortIn.idle : PortIn := ⟨true, false, ⟨0, 0⟩, false⟩

/-- The input ports when the host offers a command. -/
def PortIn.offer (c : Command) : PortIn := ⟨true, true, c, false⟩

/-- The input ports when the host is ready to take a response. -/
def PortIn.take : PortIn := ⟨true, false, ⟨0, 0⟩, true⟩

/-- The input ports of a step with RST_N asserted. -/
def PortIn.assertReset : PortIn := ⟨false, false, ⟨0, 0⟩, false⟩

/-- What the host drives for a sequence of commands: it offers each, waits for it to complete, and takes its response
(R131). -/
def hostScript (cs : List Command) : List PortIn := cs.flatMap fun c => [.offer c, .idle, .take]

/-- The input ports of the coming step. -/
def State.portIn (s : State) : PortIn := s.inputs.headD PortIn.idle

/-- The coming step's input values are used up. -/
def State.tick (s : State) : State := { s with inputs := s.inputs.tail }

/-- CMD_READY = 1: a command on offer is accepted, its CMD and DIN sampled once (R46, R60, R131). Otherwise the engine
holds its state (R127). -/
def readyStep (p : PortIn) (s : State) : State :=
  if p.cmdValid then { s with channel := .busy p.command } else s

/-- RSP_VALID = 1: the host takes the response, or it stays on offer (R60, R131). -/
def respondingStep (p : PortIn) (r : Response) (s : State) : State :=
  if p.rspReady then { s with channel := .ready, received := s.received ++ [r] } else s

/-- A step without reset, by where the channel stands: accept, execute, or respond. -/
def channelStep (p : PortIn) (s : State) : Host.Outcome State Fault Refusal :=
  match s.channel with
  | .ready => .next (readyStep p s)
  | .busy c => execute c s
  | .responding r => .next (respondingStep p r s)

/-- One step of the engine under the input ports `p`. Reset wins over a command in flight and over a response not taken
(R140). It wins as well where RST_N is low in the very step in which RSP_VALID and RSP_READY are 1: the spec leaves open
whether that response counts as taken (R60) or as withdrawn (R140), and here it is withdrawn (DESIGN CHOICE, log entry
7). ERRCODE 4 to 7 stops (U9; log entry 9). -/
def portStep (p : PortIn) (s : State) : Host.Outcome State Fault Refusal :=
  if p.rstN = false then .next (resetEngine s)
  else if reservedErrcode s.errcode then .fault .reservedErrcode
  else channelStep p s

/-- A command in flight, so that the next step runs it: the engine has accepted it, and the host does nothing in that
step. Log entry 11. -/
def State.withCommand (s : State) (c : Command) : State :=
  { s with channel := .busy c, inputs := PortIn.idle :: s.inputs }

end Sys2Proof.Machine
end

