-- ==== Sys2Proof/Machine/Step.lean ====
section
/-! DEFINITION. One step of the machine, and the placing of a command as the next one to run. -/

namespace Sys2Proof.Machine

/-- One step: a reset, an acceptance, the execution of the accepted command, or the taking of its response. -/
def step (s : State) : Host.Outcome State Fault Refusal := portStep s.portIn s.tick

/-- The state with the command of these bits accepted and about to run (bits from `nbits` up are 0, so the payload of a
table row is zero). -/
def State.withFetchWord (s : State) (nbits w : Nat) : State := s.withCommand (commandOfBits nbits w)

end Sys2Proof.Machine
end

