-- ==== Sys2Proof/Machine/Assembler.lean ====
section
/-! DEFINITION. The host's textual command language and its pseudo-instructions (spec/30_encoding.md R61, R62). It is
notation: the engine sees only the commands. Log entry 14 says what the spec leaves open in the text. -/

namespace Sys2Proof.Machine

/-- UPDATE with these bytes: NBYTES is their number, the other payload bytes are 0, and more than 64 bytes is an
assembler error (R61). -/
def asmUpdate (bs : List Byte) : Option Instr :=
  if bs.length ≤ 64 then some (.update (BitVec.ofNat 7 bs.length) (packLe 512 bs)) else none

/-- The UPDATE of at most 64 bytes that `absorbInstrs` cuts a message into. -/
def chunkUpdate (bs : List Byte) : Instr := .update (BitVec.ofNat 7 bs.length) (packLe 512 bs)

/-- The pseudo-instruction ABSORB: one UPDATE for each 64 bytes, and one for the rest if there is a rest (R62). -/
def absorbInstrs (msg : List Byte) : List Instr :=
  (List.range (msg.length / 64)).map (fun k => chunkUpdate ((msg.drop (64 * k)).take 64)) ++
    (if msg.length % 64 = 0 then [] else [chunkUpdate (msg.drop (64 * (msg.length / 64)))])

/-- The pseudo-instruction HASH: INIT, ABSORB of the bytes, FINAL, READ (R62). -/
def hashInstrs (msg : List Byte) : List Instr := .init :: absorbInstrs msg ++ [.final, .read]

/-- The characters that separate words. -/
def isBlank (c : Char) : Bool := c == ' ' || c == '\t' || c == '\r'

/-- The text without the blanks around it. -/
def trimBlanks (cs : List Char) : List Char := ((cs.dropWhile isBlank).reverse.dropWhile isBlank).reverse

/-- The line up to its comment: `;` starts one, except inside double quotes. -/
def stripComment (quoted : Bool) : List Char → List Char
  | [] => []
  | c :: cs =>
    if c == '"' then c :: stripComment (!quoted) cs
    else if c == ';' && !quoted then []
    else c :: stripComment quoted cs

/-- The value of a hexadecimal digit. -/
def hexDigit (c : Char) : Option (BitVec 4) :=
  if '0' ≤ c ∧ c ≤ '9' then some (BitVec.ofNat 4 (c.toNat - 48))
  else if 'a' ≤ c ∧ c ≤ 'f' then some (BitVec.ofNat 4 (c.toNat - 87))
  else if 'A' ≤ c ∧ c ≤ 'F' then some (BitVec.ofNat 4 (c.toNat - 55))
  else none

/-- Pairs of hexadecimal digits as bytes in message order, high nibble first (R61, R95). -/
def hexBytes : List Char → Option (List Byte)
  | [] => some []
  | [_] => none
  | hi :: lo :: cs =>
    match hexDigit hi, hexDigit lo, hexBytes cs with
    | some h, some l, some bs => some ((h ++ l) :: bs)
    | _, _, _ => none

/-- Each character's ASCII code as a byte (R61). -/
def asciiBytes : List Char → Option (List Byte)
  | [] => some []
  | c :: cs =>
    if c == '"' || 128 ≤ c.toNat then none else (asciiBytes cs).map (BitVec.ofNat 8 c.toNat :: ·)

/-- What stands between an opened quote and the quote that ends the text. -/
def untilQuote (cs : List Char) : Option (List Char) :=
  if cs.getLast? = some '"' then some cs.dropLast else none

/-- The operand `x"<hex digits>"` (R61). -/
def hexOperand : List Char → Option (List Byte)
  | 'x' :: '"' :: cs => (untilQuote cs).bind hexBytes
  | _ => none

/-- The operand `"<ASCII characters>"` (R61). -/
def asciiOperand : List Char → Option (List Byte)
  | '"' :: cs => (untilQuote cs).bind asciiBytes
  | _ => none

/-- Either operand (R61). -/
def byteOperand (cs : List Char) : Option (List Byte) := (hexOperand cs).orElse fun _ => asciiOperand cs

/-- `.word 0x<hhhh>`, a reserved encoding by its word; the payload is zero (R61). -/
def wordOperand : List Char → Option Command
  | ['0', 'x', a, b, c, d] =>
    match hexDigit a, hexDigit b, hexDigit c, hexDigit d with
    | some a, some b, some c, some d => some ⟨a ++ b ++ c ++ d, 0⟩
    | _, _, _, _ => none
  | _ => none

/-- A command without operand. -/
def bare (i : Instr) (operand : List Char) : Option (List Command) :=
  if operand = [] then some [encode i] else none

/-- The commands a mnemonic and its operand stand for (R61, R62); the mnemonic is in capitals. -/
def assembleWords (mnemonic operand : List Char) : Option (List Command) :=
  if mnemonic = ['I', 'N', 'I', 'T'] then bare .init operand
  else if mnemonic = ['F', 'I', 'N', 'A', 'L'] then bare .final operand
  else if mnemonic = ['R', 'E', 'A', 'D'] then bare .read operand
  else if mnemonic = ['U', 'P', 'D', 'A', 'T', 'E'] then
    ((byteOperand operand).bind asmUpdate).map fun i => [encode i]
  else if mnemonic = ['A', 'B', 'S', 'O', 'R', 'B'] then
    (hexOperand operand).map fun msg => (absorbInstrs msg).map encode
  else if mnemonic = ['H', 'A', 'S', 'H'] then
    (byteOperand operand).map fun msg => (hashInstrs msg).map encode
  else if mnemonic = ['.', 'W', 'O', 'R', 'D'] then (wordOperand operand).map fun c => [c]
  else none

/-- The commands of one line: none for an empty line or a comment; `none` is an assembler error. Mnemonics are
case-insensitive (R61). -/
def assembleLine (line : List Char) : Option (List Command) :=
  let text := trimBlanks (stripComment false line)
  if text = [] then some []
  else assembleWords ((text.takeWhile fun c => !isBlank c).map Char.toUpper)
    (trimBlanks (text.dropWhile fun c => !isBlank c))

/-- The commands of a program, one command per line (R61). -/
def assembleLines : List (List Char) → Option (List Command)
  | [] => some []
  | line :: rest =>
    match assembleLine line, assembleLines rest with
    | some cs, some more => some (cs ++ more)
    | _, _ => none

end Sys2Proof.Machine
end

