-- ==== Sys2Proof/Machine/Platform.lean ====
section
/-! DEFINITION. A platform of N_ENGINES engine instances (spec/20_memory.md R47, spec/60_exceptions.md R125,
spec/00_scope.md R8). Log entry 12. -/

namespace Sys2Proof.Machine

/-- `n` engine instances, each with its own state, ports and reset (R125). Each draws its free values by its own counter
from the constants of Config, so instances with equal counters draw equal values (DESIGN CHOICE, log entry 12). -/
abbrev Platform (n : Nat) := Vector State n

/-- Instance `i` takes one step; no other instance is touched. -/
def Platform.stepAt {n : Nat} (p : Platform n) (i : Fin n) : Host.Outcome (Platform n) Fault Refusal :=
  match step p[i] with
  | .next s => .next (p.set i s)
  | .fault f => .fault f
  | .refused r => .refused r

/-- The instances named in `sched` take one step each, in that order, up to the first that stops. -/
def Platform.runSchedule {n : Nat} (p : Platform n) : List (Fin n) → Host.Outcome (Platform n) Fault Refusal
  | [] => .next p
  | i :: sched =>
    match p.stepAt i with
    | .next q => Platform.runSchedule q sched
    | .fault f => .fault f
    | .refused r => .refused r

end Sys2Proof.Machine
end

