-- ==== Sys2Proof/Safety.lean ====
section
/-! DEFINITION. The terms claims use: what a computation has absorbed, the invariant of every reachable state
(spec/10_state.md R33), and when two states agree on everything the spec gives a value. -/

namespace Sys2Proof.Machine

/-- In ABSORB, the UPDATEs since INIT supplied `msg`: BCNT = T mod 64, LEN = (8·T) mod 2^64, H is the IV folded with the
full blocks, and BUF[0..BCNT) is the tail (R24, R33 item 1). -/
structure Absorbed (msg : List Byte) (s : State) : Prop where
  absorbing : s.fsm = .absorb
  digestState : s.H = foldBlocks iv (fullBlocks msg)
  count : s.bcnt.val = msg.length % 64
  bitLen : s.len = bitLength msg
  tail : s.tail = tailBytes msg

/-- In DONE, DIGEST is the digest of `msg` (R33 item 2). -/
structure Finished (msg : List Byte) (s : State) : Prop where
  done : s.fsm = .done
  digest : s.digest = computeDigest msg

/-- A response says nothing beyond RSP_OK unless it is a READ's: a rejected command's data is zero (R59). -/
def Response.wf (r : Response) : Prop := r.ok = false → r.data = 0

/-- What every reachable state satisfies (R22, R33, R59). -/
structure Inv (s : State) : Prop where
  /-- ERRCODE is never one of the reserved codes 4 to 7 (R22). -/
  errcodeLegal : s.errcode.toNat ≤ 3
  /-- ERRCODE is nonzero exactly in ERROR (R22, R33 item 4). -/
  errorCause : s.fsm = .error ↔ s.errcode ≠ 0
  /-- R33 item 1. -/
  absorbed : s.fsm = .absorb → ∃ msg, Absorbed msg s
  /-- R33 item 2. -/
  finished : s.fsm = .done → ∃ msg, Finished msg s
  /-- The response on offer, and every response taken, is well formed (R59). -/
  offered : ∀ r, s.response = some r → r.wf
  taken : ∀ r ∈ s.received, r.wf

/-- Two states agree on everything the spec gives a value. They may differ in the working variables (R17), in the stale
bytes of BUF (R24), in every register R32 leaves without a value in IDLE, in BUF, BCNT, LEN and H after FINAL (R104,
U5), in DIGEST while no command can read it (R111), and in everything ERROR hides (R114). -/
structure SameSpecified (s t : State) : Prop where
  fsm : s.fsm = t.fsm
  errcode : s.errcode = t.errcode
  channel : s.channel = t.channel
  inputs : s.inputs = t.inputs
  received : s.received = t.received
  digestState : s.fsm = .absorb → s.H = t.H
  count : s.fsm = .absorb → s.bcnt = t.bcnt
  bitLen : s.fsm = .absorb → s.len = t.len
  tail : s.fsm = .absorb → s.tail = t.tail
  digest : s.fsm = .done → s.digest = t.digest

/-- Two outcomes of the same kind, with next states related by `R`. -/
def sameOutcome (R : State → State → Prop) :
    Host.Outcome State Fault Refusal → Host.Outcome State Fault Refusal → Prop
  | .next s, .next t => R s t
  | .fault f, .fault g => f = g
  | .refused r, .refused q => r = q
  | _, _ => False

/-- An UPDATE command as its byte count and payload. -/
def updates (us : List (BitVec 7 × Payload)) : List Instr := us.map fun u => .update u.1 u.2

/-- The message the UPDATEs supply, in acceptance order (R35). -/
def messageOf (us : List (BitVec 7 × Payload)) : List Byte := us.flatMap fun u => payloadBytes u.1.toNat u.2

/-- The commands of one computation: INIT, the UPDATEs, FINAL, READ (R109). -/
def computation (us : List (BitVec 7 × Payload)) : List Instr := .init :: updates us ++ [.final, .read]

/-- The host issues these commands over these steps' input values, whatever else it drives: before a command it may wait
(`wait`); the command is on offer when the engine is ready; one step later it has completed (log entry 8), and the host
takes its response at once or after any further steps (R60, R131). RST_N stays released. -/
inductive HostIssues : List Command → List PortIn → Prop where
  | finished : HostIssues [] []
  | wait (p : PortIn) {cs : List Command} {ports : List PortIn} :
      p.rstN = true → p.cmdValid = false → HostIssues cs ports → HostIssues cs (p :: ports)
  | command (offer busy take : PortIn) (held : List PortIn) {cs : List Command} {ports : List PortIn} :
      offer.rstN = true → offer.cmdValid = true → busy.rstN = true →
      (∀ p ∈ held, p.rstN = true ∧ p.rspReady = false) → take.rstN = true → take.rspReady = true →
      HostIssues cs ports → HostIssues (offer.command :: cs) (offer :: busy :: (held ++ take :: ports))

/-- Four variables as the positions 0..3 of RFC 1321's in-place form (R84). -/
def positions (v : Quad) : Vector Word 4 := #v[v.a, v.b, v.c, v.d]

/-- RFC 1321's in-place form of a step (R84): the four variables keep their positions 0..3, the roles a, b, c, d of
step i stand at positions -i, -i+1, -i+2, -i+3 modulo 4, and the step overwrites the position of role a. -/
def inPlaceStep (M : BlockWords) (v : Vector Word 4) (i : Fin 64) : Vector Word 4 :=
  let role (k : Nat) : Fin 4 := Fin.ofNat 4 (64 - i.val + k)
  let a := v[role 0]
  let b := v[role 1]
  let c := v[role 2]
  let d := v[role 3]
  v.set (role 0) (b + rotl32 (a + roundFn (groupOf i) b c d + M[msgIndex i] + roundConstants[i]) (rotAmount i))

/-- The first final block as bytes by position: the tail, the byte 0x80, zeros, and, when the tail has at most 55 bytes,
the trailer at offset 56 (R66, R67). -/
@[irreducible] def firstFinalBlock (s : State) : Block :=
  Vector.ofFn fun k : Fin 64 =>
    if k.val < s.bcnt.val then s.buf[k]
    else if k = s.bcnt then 0x80
    else if s.bcnt.val < 56 ∧ 56 ≤ k.val then byteOf s.len (k.val - 56)
    else 0

/-- The second final block, when the tail has at least 56 bytes: 56 zero bytes and the trailer (R67). -/
@[irreducible] def secondFinalBlock (s : State) : Block :=
  Vector.ofFn fun k : Fin 64 => if k.val < 56 then 0 else byteOf s.len (k.val - 56)

end Sys2Proof.Machine
end

