-- ==== Sys2Proof/Certificates/Slice0/Obligations.lean ====
section
/-! DEFINITION. The statements for the provers: what the spec's rules say the engine does. -/

open Sys2Proof Sys2Proof.Machine

/-! ### Encoding -/

/-- Sample command words decode as spec/95_test_vectors.md T-DEC says (R52's sample encodings among them). -/
def Obligations.SampleWordsDecode : Prop :=
  ∀ din : Payload,
    decode ⟨0x0001, din⟩ = .ok .init ∧ decode ⟨0x0002, din⟩ = .ok (.update 0 din) ∧
    decode ⟨0x0032, din⟩ = .ok (.update 3 din) ∧ decode ⟨0x0372, din⟩ = .ok (.update 55 din) ∧
    decode ⟨0x0402, din⟩ = .ok (.update 64 din) ∧ decode ⟨0x0003, din⟩ = .ok .final ∧
    decode ⟨0x0004, din⟩ = .ok .read ∧ decode ⟨0x0412, din⟩ = .error .reservedField ∧
    decode ⟨0x8002, din⟩ = .error .reservedField ∧ decode ⟨0x0000, din⟩ = .error .illegalOpcode ∧
    decode ⟨0x8005, din⟩ = .error .illegalOpcode

/-- R55: every command word has exactly the outcome the decode order gives it, and exactly 68 words are legal. -/
def Obligations.DecodeFollowsTheOrder : Prop :=
  (∀ c : Command,
    let op := (c.cmd.extractLsb' 0 4).toNat
    let n := (c.cmd.extractLsb' 4 7).toNat
    let rsvd := (c.cmd.extractLsb' 11 5).toNat
    (op ∉ [1, 2, 3, 4] → decode c = .error .illegalOpcode) ∧
    (op ∈ [1, 2, 3, 4] → rsvd ≠ 0 → decode c = .error .reservedField) ∧
    (op = 2 → rsvd = 0 → 64 < n → decode c = .error .reservedField) ∧
    (op ∈ [1, 3, 4] → rsvd = 0 → n ≠ 0 → decode c = .error .reservedField) ∧
    (op = 1 → rsvd = 0 → n = 0 → decode c = .ok .init) ∧
    (op = 2 → rsvd = 0 → n ≤ 64 → decode c = .ok (.update (BitVec.ofNat 7 n) c.din)) ∧
    (op = 3 → rsvd = 0 → n = 0 → decode c = .ok .final) ∧
    (op = 4 → rsvd = 0 → n = 0 → decode c = .ok .read)) ∧
  (∀ din : Payload, ((List.range 65536).filter fun w => (decode ⟨BitVec.ofNat 16 w, din⟩).isOk).length = 68)

/-- R52: which words are legal encodings, and of what. UPDATE of n bytes is the word 2 + 16·n, that is a word with 2
under the mask 0xF80F and n ≤ 64 in NBYTES; the other three are one word each. No word with another OP is legal. -/
def Obligations.LegalWordsAreTheTable : Prop :=
  ∀ c : Command,
    (decode c = .ok .init ↔ c.cmd = 0x0001) ∧
    (∀ n din, decode c = .ok (.update n din) ↔
      n.toNat ≤ 64 ∧ c.cmd = BitVec.ofNat 16 (0x0002 + 16 * n.toNat) ∧ din = c.din) ∧
    (∀ n din, decode c = .ok (.update n din) ↔
      c.cmd &&& 0xF80F = 0x0002 ∧ n = c.cmd.extractLsb' 4 7 ∧ n.toNat ≤ 64 ∧ din = c.din) ∧
    (decode c = .ok .final ↔ c.cmd = 0x0003) ∧
    (decode c = .ok .read ↔ c.cmd = 0x0004) ∧
    ((c.cmd.extractLsb' 0 4 = 0 ∨ 5 ≤ (c.cmd.extractLsb' 0 4).toNat) → ∀ i, decode c ≠ .ok i)

/-- The rows of the opcode table do not overlap: a word that has a row's fixed bits, and for UPDATE a byte count of at
most 64, decodes to that row's command, and every legal word has its command's row and no other. -/
def Obligations.OpcodeRowsDoNotOverlap : Prop :=
  (∀ r ∈ opcodeTable, ∀ c : Command, r.matchesWord c.cmd = true →
    (r.op = .update → (nbytesField c.cmd).toNat ≤ 64) → ∃ i, decode c = .ok i ∧ i.opcode = r.op) ∧
  (∀ c i, decode c = .ok i → ∃ r ∈ opcodeTable, r.op = i.opcode ∧ r.matchesWord c.cmd = true ∧
    ∀ r' ∈ opcodeTable, r'.matchesWord c.cmd = true → r' = r)

/-- Decoding an encoded well-formed command gives it back, with every byte count and every payload. -/
def Obligations.DecodeOfEncode : Prop :=
  ∀ i : Instr, i.wellFormed = true → decode (encode i) = .ok i

/-- Encoding what was decoded gives the command word back (and UPDATE's payload), and what is decoded is well formed. -/
def Obligations.EncodeOfDecode : Prop :=
  ∀ (c : Command) (i : Instr), decode c = .ok i →
    i.wellFormed = true ∧ (encode i).cmd = c.cmd ∧ (i.opcode = .update → (encode i).din = c.din)

/-- R58: payload bytes a command does not read have no effect on any state or response. An UPDATE that executes reads
bytes 0..n-1; no other command reads any, and a rejected word, an UPDATE among them, reads none. -/
def Obligations.IgnoredPayloadBytesHaveNoEffect : Prop :=
  ∀ (c c' : Command) (s : State), c.cmd = c'.cmd →
    (s.fsm = .absorb → opField c.cmd = 2 → rsvdField c.cmd = 0 → (nbytesField c.cmd).toNat ≤ 64 →
      ∀ k < (nbytesField c.cmd).toNat, c.din.extractLsb' (8 * k) 8 = c'.din.extractLsb' (8 * k) 8) →
    execute c s = execute c' s

/-! ### The commands -/

/-- R101: INIT (0x0001, whatever the payload) loads the IV, clears BCNT and LEN and opens a computation, in IDLE and in
DONE, and writes nothing else. In ABSORB it is a SEQUENCE error, in ERROR it is rejected with no state change. -/
def Obligations.InitStartsComputation : Prop :=
  (∀ din : Payload, decode ⟨0x0001, din⟩ = .ok .init) ∧
  ∀ s : State,
    (s.fsm = .idle ∨ s.fsm = .done → exec .init s = .next { s with
        H := ⟨0x67452301, 0xEFCDAB89, 0x98BADCFE, 0x10325476⟩
        bcnt := 0
        len := 0
        fsm := .absorb
        channel := .responding ⟨true, 0⟩ }) ∧
    (s.fsm = .absorb → exec .init s = .next { s with
      fsm := .error, errcode := 3, channel := .responding ⟨false, 0⟩ }) ∧
    (s.fsm = .error → exec .init s = .next { s with channel := .responding ⟨false, 0⟩ })

/-- R102, R103, the byte-by-byte rule in closed form: UPDATE of n bytes in ABSORB completes; LEN grows by 8·n modulo
2^64; BUF gains byte j at position (BCNT + j) mod 64 and keeps its other bytes; when the bytes fill the buffer, H is
compressed once with the full block (the old tail followed by the first payload bytes), otherwise H, the working
variables and the draw counter keep their values; the count and the tail are what is left. STATE, ERRCODE, DIGEST and
the host's side are unchanged and the response is (1, 0). In IDLE and DONE it is a SEQUENCE error, with more than 64
bytes a RESERVED_FIELD error, as is the word with a nonzero RSVD, and in ERROR it is rejected with no state change. The
word is 2 + 16·n. The model's choice, and no rule: the bytes of BUF at and above the new BCNT, which R24 leaves
unspecified (log entry 4); that the working variables keep their values where no block fills (R17 leaves them
unspecified, log entry 3); and the draw counter, the model's own (log entry 2). -/
def Obligations.UpdateAbsorbsItsBytes : Prop :=
  ∀ (s : State) (n : BitVec 7) (din : Payload),
    (n.toNat ≤ 64 → decode ⟨BitVec.ofNat 16 (0x0002 + 16 * n.toNat), din⟩ = .ok (.update n din)) ∧
    (∀ c : Command, opField c.cmd = 2 → rsvdField c.cmd ≠ 0 → decode c = .error .reservedField) ∧
    (s.fsm = .absorb → n.toNat ≤ 64 →
      let bytes := (List.range n.toNat).map fun k => din.extractLsb' (8 * k) 8
      ∃ t, exec (.update n din) s = .next t ∧
        t.len = s.len + BitVec.ofNat 64 (8 * n.toNat) ∧
        (∀ (k : Nat) (_ : k < 64),
          (∀ j < n.toNat, (s.bcnt.val + j) % 64 = k → t.buf[k] = din.extractLsb' (8 * j) 8) ∧
          ((∀ j < n.toNat, (s.bcnt.val + j) % 64 ≠ k) → t.buf[k] = s.buf[k])) ∧
        (s.bcnt.val + n.toNat < 64 →
          t.H = s.H ∧ t.work = s.work ∧ t.free = s.free ∧
          t.bcnt.val = s.bcnt.val + n.toNat ∧ t.tail = s.tail ++ bytes) ∧
        (64 ≤ s.bcnt.val + n.toNat →
          t.H = compress s.H (toBlock ((s.tail ++ bytes).take 64)) ∧
          t.bcnt.val = s.bcnt.val + n.toNat - 64 ∧ t.tail = (s.tail ++ bytes).drop 64) ∧
        t.fsm = s.fsm ∧ t.errcode = s.errcode ∧ t.digest = s.digest ∧
        t.inputs = s.inputs ∧ t.received = s.received ∧ t.channel = .responding ⟨true, 0⟩) ∧
    (s.fsm = .idle ∨ s.fsm = .done → n.toNat ≤ 64 → exec (.update n din) s = .next { s with
      fsm := .error, errcode := 3, channel := .responding ⟨false, 0⟩ }) ∧
    (s.fsm ≠ .error → 64 < n.toNat → exec (.update n din) s = .next { s with
      fsm := .error, errcode := 2, channel := .responding ⟨false, 0⟩ }) ∧
    (s.fsm = .error → exec (.update n din) s = .next { s with channel := .responding ⟨false, 0⟩ })

/-- R110: UPDATE of zero bytes (0x0002) writes no byte, compresses nothing, leaves LEN unchanged and responds (1, 0); in
IDLE and DONE it is a SEQUENCE error like any UPDATE. -/
def Obligations.UpdateOfZeroBytes : Prop :=
  ∀ (s : State) (din : Payload),
    decode ⟨0x0002, din⟩ = .ok (.update 0 din) ∧
    (s.fsm = .absorb → exec (.update 0 din) s = .next { s with channel := .responding ⟨true, 0⟩ }) ∧
    (s.fsm = .idle ∨ s.fsm = .done → exec (.update 0 din) s = .next { s with
      fsm := .error, errcode := 3, channel := .responding ⟨false, 0⟩ })

/-- R119 with R26: an UPDATE that makes LEN wrap executes normally: LEN counts 8·n bits for each UPDATE of n bytes,
modulo 2^64, with no error and no saturation, whatever its value. -/
def Obligations.BitLengthWraps : Prop :=
  ∀ (s : State) (n : BitVec 7) (din : Payload), s.fsm = .absorb → n.toNat ≤ 64 →
    ∃ t, exec (.update n din) s = .next t ∧ t.fsm = .absorb ∧ t.errcode = s.errcode ∧
      t.channel = .responding ⟨true, 0⟩ ∧ t.len.toNat = (s.len.toNat + 8 * n.toNat) % 2 ^ 64

/-- R104 with R66 and R67: FINAL (0x0003, whatever the payload) in ABSORB completes. With a tail of at most 55 bytes it
compresses one block (tail, 0x80, zeros, trailer at offset 56); with 56 to 63 bytes, two (tail, 0x80, zeros; then 56
zeros and the trailer). It latches the digest and goes to DONE; ERRCODE and the host's side are unchanged; nothing is
said of BUF, BCNT, LEN and the working variables, which are unspecified afterwards. In IDLE and DONE it is a SEQUENCE
error, in ERROR it is rejected with no state change. -/
def Obligations.FinalPadsAndLatches : Prop :=
  (∀ din : Payload, decode ⟨0x0003, din⟩ = .ok .final) ∧
  ∀ s : State,
    (s.fsm = .absorb → ∃ t, exec .final s = .next t ∧
      (s.bcnt.val ≤ 55 → t.H = compress s.H (firstFinalBlock s)) ∧
      (56 ≤ s.bcnt.val → t.H = compress (compress s.H (firstFinalBlock s)) (secondFinalBlock s)) ∧
      t.digest = serialize t.H ∧ t.fsm = .done ∧ t.errcode = s.errcode ∧ t.inputs = s.inputs ∧
      t.received = s.received ∧ t.channel = .responding ⟨true, 0⟩) ∧
    (s.fsm = .idle ∨ s.fsm = .done → exec .final s = .next { s with
      fsm := .error, errcode := 3, channel := .responding ⟨false, 0⟩ }) ∧
    (s.fsm = .error → exec .final s = .next { s with channel := .responding ⟨false, 0⟩ })

/-- R105: READ (0x0004, whatever the payload) in DONE responds with DIGEST and changes no state; in IDLE and ABSORB it
is a SEQUENCE error, in ERROR it is rejected with no state change. -/
def Obligations.ReadReturnsTheDigest : Prop :=
  (∀ din : Payload, decode ⟨0x0004, din⟩ = .ok .read) ∧
  ∀ s : State,
    (s.fsm = .done → exec .read s = .next { s with channel := .responding ⟨true, packDigest s.digest⟩ }) ∧
    (s.fsm = .idle ∨ s.fsm = .absorb → exec .read s = .next { s with
      fsm := .error, errcode := 3, channel := .responding ⟨false, 0⟩ }) ∧
    (s.fsm = .error → exec .read s = .next { s with channel := .responding ⟨false, 0⟩ })

/-- R59: every command, legal or not, from every state, completes with exactly one response; RSP_OK = 1 exactly when the
command was not rejected; RSP_DATA is DIGEST for an executed READ and zero for every other response. -/
def Obligations.EveryCommandGetsOneResponse : Prop :=
  ∀ (c : Command) (s : State), ∃ t r, execute c s = .next t ∧ t.channel = .responding r ∧
    (r.ok = true ↔ t.fsm ≠ .error) ∧
    (decode c = .ok .read → s.fsm = .done → r.data = packDigest s.digest) ∧
    (¬ (decode c = .ok .read ∧ s.fsm = .done) → r.data = 0)

/-- R107: the next STATE of every command in every state. -/
def Obligations.TransitionTable : Prop :=
  ∀ (c : Command) (s t : State), execute c s = .next t →
    (s.fsm = .error → t.fsm = .error) ∧
    (s.fsm ≠ .error → (∃ k, decode c = .error k) → t.fsm = .error) ∧
    (decode c = .ok .init → t.fsm = if s.fsm = .idle ∨ s.fsm = .done then .absorb else .error) ∧
    (∀ n din, decode c = .ok (.update n din) → t.fsm = if s.fsm = .absorb then .absorb else .error) ∧
    (decode c = .ok .final → t.fsm = if s.fsm = .absorb then .done else .error) ∧
    (decode c = .ok .read → t.fsm = if s.fsm = .done then .done else .error)

/-- R112: what the commands do not write. Executed, INIT does not write BUF, DIGEST, ERRCODE or the working variables;
UPDATE does not write DIGEST, STATE or ERRCODE; FINAL does not write ERRCODE; READ writes nothing. A rejected command
writes only STATE and ERRCODE, and nothing in ERROR. No command writes the host's side. The model's choice, and no rule:
that the working variables, unspecified between passes (R17), keep their values (log entry 3), and the draw counter, the
model's own (log entry 2). -/
def Obligations.WhatCommandsDoNotWrite : Prop :=
  ∀ (i : Instr) (s t : State), exec i s = .next t →
    t.inputs = s.inputs ∧ t.received = s.received ∧
    (t.fsm ≠ .error →
      t.errcode = s.errcode ∧
      (i = .init → t.buf = s.buf ∧ t.digest = s.digest ∧ t.work = s.work ∧ t.free = s.free) ∧
      (∀ n din, i = .update n din → t.digest = s.digest ∧ t.fsm = s.fsm) ∧
      (i = .read → t = { s with channel := t.channel })) ∧
    (t.fsm = .error → s.fsm ≠ .error → t = { s with
      fsm := .error, errcode := t.errcode, channel := .responding ⟨false, 0⟩ }) ∧
    (s.fsm = .error → t = { s with channel := .responding ⟨false, 0⟩ })

/-! ### Errors -/

/-- R53: an illegal opcode is rejected with ERRCODE 1, whatever its other fields hold, and changes nothing else. -/
def Obligations.IllegalOpcodeIsRejected : Prop :=
  ∀ (c : Command) (s : State), (opField c.cmd = 0 ∨ 5 ≤ (opField c.cmd).toNat) → s.fsm ≠ .error →
    execute c s = .next { s with fsm := .error, errcode := 1, channel := .responding ⟨false, 0⟩ }

/-- R54, R51: with a legal opcode, a nonzero RSVD, an UPDATE count above 64, or a nonzero NBYTES on another command is
rejected with ERRCODE 2. -/
def Obligations.ReservedFieldIsRejected : Prop :=
  ∀ (c : Command) (s : State), (1 ≤ (opField c.cmd).toNat ∧ (opField c.cmd).toNat ≤ 4) → s.fsm ≠ .error →
    (rsvdField c.cmd ≠ 0 ∨ (opField c.cmd = 2 ∧ 64 < (nbytesField c.cmd).toNat) ∨
      (opField c.cmd ≠ 2 ∧ nbytesField c.cmd ≠ 0)) →
    execute c s = .next { s with fsm := .error, errcode := 2, channel := .responding ⟨false, 0⟩ }

/-- R100: the legality table. Where it says "executes", a legally encoded command executes; where it says SEQUENCE
error, it is rejected with ERRCODE 3; in ERROR it is rejected with no change. -/
def Obligations.LegalityByState : Prop :=
  ∀ (i : Instr) (s : State), i.wellFormed = true →
    let runs := i = .init ∧ (s.fsm = .idle ∨ s.fsm = .done) ∨ (∃ n din, i = .update n din) ∧ s.fsm = .absorb ∨
      i = .final ∧ s.fsm = .absorb ∨ i = .read ∧ s.fsm = .done
    (runs → ∃ t r, exec i s = .next t ∧ t.channel = .responding r ∧ r.ok = true ∧ t.fsm ≠ .error) ∧
    (¬ runs → s.fsm ≠ .error → exec i s = .next { s with
      fsm := .error, errcode := 3, channel := .responding ⟨false, 0⟩ }) ∧
    (s.fsm = .error → exec i s = .next { s with channel := .responding ⟨false, 0⟩ })

/-- R115, R116: of the causes that apply, the first of ILLEGAL_OPCODE, RESERVED_FIELD and SEQUENCE is reported, and a
command to which none applies is not rejected. An error and a reset at the same time resolve to reset. -/
def Obligations.ErrorPriority : Prop :=
  (∀ (c : Command) (s : State), s.fsm ≠ .error →
    let op := (opField c.cmd).toNat
    let illegal := op = 0 ∨ 5 ≤ op
    let reserved := rsvdField c.cmd ≠ 0 ∨ (op = 2 ∧ 64 < (nbytesField c.cmd).toNat) ∨
      (op ≠ 2 ∧ nbytesField c.cmd ≠ 0)
    let misplaced := op = 1 ∧ s.fsm = .absorb ∨ (op = 2 ∨ op = 3) ∧ s.fsm ≠ .absorb ∨ op = 4 ∧ s.fsm ≠ .done
    ∃ t, execute c s = .next t ∧
      (illegal → t.errcode = 1) ∧
      (¬ illegal → reserved → t.errcode = 2) ∧
      (¬ illegal → ¬ reserved → misplaced → t.errcode = 3) ∧
      (¬ illegal → ¬ reserved → ¬ misplaced → t.errcode = s.errcode ∧ t.fsm ≠ .error)) ∧
  (∀ s : State, s.portIn.rstN = false → ∃ t, step s = .next t ∧ t.fsm = .idle ∧ t.errcode = 0)

/-- R114: errors are precise. A command that takes the engine into ERROR leaves every register but STATE and ERRCODE as
it was, records a cause 1 to 3, and responds (0, 0). -/
def Obligations.ErrorsArePrecise : Prop :=
  ∀ (c : Command) (s t : State), s.fsm ≠ .error → execute c s = .next t → t.fsm = .error →
    (t.errcode = 1 ∨ t.errcode = 2 ∨ t.errcode = 3) ∧
    t = { s with fsm := .error, errcode := t.errcode, channel := .responding ⟨false, 0⟩ }

/-- R117: in ERROR the engine accepts every command word, answers it (0, 0) and changes no state. -/
def Obligations.ErrorAnswersEveryWord : Prop :=
  ∀ s : State, s.fsm = .error →
    (s.cmdReady = true → s.portIn.rstN = true → s.portIn.cmdValid = true → s.errcode.toNat ≤ 3 →
      ∃ t, step s = .next t ∧ t.channel = .busy s.portIn.command) ∧
    (∀ c : Command, execute c s = .next { s with channel := .responding ⟨false, 0⟩ })

/-- R118: reset is the only way out of ERROR, and the first cause stays until then (R22). -/
def Obligations.OnlyResetLeavesError : Prop :=
  ∀ s t : State, s.fsm = .error → step s = .next t →
    (s.portIn.rstN = false ∧ t.fsm = .idle ∧ t.errcode = 0) ∨
    (s.portIn.rstN = true ∧ t.fsm = .error ∧ t.errcode = s.errcode)

/-! ### Reset and status -/

/-- R128, R140: with RST_N asserted, a step from any state, also one with a command in flight or a response not taken,
ends in IDLE with ERRCODE 0, STATUS 0x00 and no response; CMD_READY is 1 once RST_N is released. Unless a response is
offered and RSP_READY is 1 in the same step, the host has received nothing more, and what was in flight or offered has no
effect: with anything else on the channel, so restricted, the step is the same. -/
def Obligations.ResetFromAnyState : Prop :=
  ∀ s : State, s.portIn.rstN = false →
    (∃ t, step s = .next t ∧
      t.fsm = .idle ∧ t.errcode = 0 ∧ t.status = 0x00 ∧ (t.portIn.rstN = true → t.cmdReady = true) ∧
      t.response = none ∧ t.inputs = s.inputs.tail ∧
      (s.portIn.rspReady = false ∨ s.response = none → t.received = s.received)) ∧
    (∀ ch : Channel,
      s.portIn.rspReady = false ∨ (s.response = none ∧ ({ s with channel := ch } : State).response = none) →
      step { s with channel := ch } = step s)

/-- The model's choice of log entry 1, no rule of the spec: the registers to which R32 gives no reset value (A to D, a
to d, BUF, BCNT, LEN, DIGEST) hold zero after a reset. The draw counter, the model's own, is not reset (log entry 2).
CMD_READY reads 1 after a step of reset even while RST_N is still held low, and reset wins over the taking of a response:
with RSP_VALID and RSP_READY both 1 the response is withdrawn and the host does not receive it (log entry 7). -/
def Obligations.ResetValuesTheModelChooses : Prop :=
  ∀ s : State, s.portIn.rstN = false →
    (∃ t, step s = .next t ∧
      t.H = ⟨0, 0, 0, 0⟩ ∧ t.work = ⟨0, 0, 0, 0⟩ ∧ t.buf = Vector.replicate 64 0 ∧ t.bcnt = 0 ∧ t.len = 0 ∧
      t.digest = Vector.replicate 16 0 ∧ t.free = s.free ∧ t.cmdReady = true ∧ t.received = s.received) ∧
    (∀ ch : Channel, step { s with channel := ch } = step s)

/-- R32, R129: after reset STATE is IDLE, ERRCODE is NONE and STATUS is 0x00, and CMD_READY is 1. -/
def Obligations.ResetStatus : Prop :=
  State.reset.fsm = .idle ∧ State.reset.errcode = 0 ∧ State.reset.status = 0x00 ∧
    State.reset.cmdReady = true ∧ State.reset.response = none

/-- R23, R21: STATUS[1:0] is STATE (0 IDLE, 1 ABSORB, 2 DONE, 3 ERROR), STATUS[4:2] is ERRCODE, STATUS[7:5] reads 0. -/
def Obligations.StatusFields : Prop :=
  ∀ s : State,
    (s.status.extractLsb' 0 2 = match s.fsm with | .idle => 0 | .absorb => 1 | .done => 2 | .error => 3) ∧
    s.status.extractLsb' 2 3 = s.errcode ∧ s.status.extractLsb' 5 3 = 0

/-- R139: STATUS changes only when a command completes, at the moment its response becomes valid, or by reset. That a
command in flight completes in this very step is the model's choice (log entry 8), and no rule. -/
def Obligations.StatusChangesAtCompletion : Prop :=
  ∀ s t : State, s.portIn.rstN = true → step s = .next t →
    ((∀ c, s.channel ≠ .busy c) → t.status = s.status) ∧
    ((∃ c, s.channel = .busy c) → s.rspValid = false ∧ t.rspValid = true)

/-! ### The ports -/

/-- A step runs the decoded command: when an accepted command decodes to `i`, RST_N is released and ERRCODE is legal,
the step is `exec i` after the input values of the step are used up; a word that does not decode is rejected with the
decoder's cause. -/
def Obligations.StepRunsTheDecodedCommand : Prop :=
  ∀ (s : State) (c : Command), s.channel = .busy c → s.portIn.rstN = true → s.errcode.toNat ≤ 3 →
    (∀ i, decode c = .ok i → step s = exec i s.tick) ∧
    (∀ k, decode c = .error k → step s = .next (reject k s.tick))

/-- The command that `withFetchWord` places runs in the very next step, with the rest of the state as it was. -/
def Obligations.PlacedCommandRunsNext : Prop :=
  ∀ (s : State) (nbits w : Nat) (i : Instr), s.errcode.toNat ≤ 3 → decodeTableWord nbits w = some i →
    step (s.withFetchWord nbits w) = exec i { s with channel := .busy (commandOfBits nbits w) }

/-- R131: the handshake. With no reset, a command is accepted exactly where CMD_READY = 1 and CMD_VALID = 1, CMD_READY
then falls, and it rises again only in a step that takes the response, which is then the host's. -/
def Obligations.HandshakeHoldsOneCommand : Prop :=
  ∀ s t : State, s.portIn.rstN = true → step s = .next t →
    (s.cmdReady = true → s.portIn.cmdValid = true →
      t.cmdReady = false ∧ t.channel = .busy s.portIn.command ∧ t.received = s.received) ∧
    (s.cmdReady = true → s.portIn.cmdValid = false → t = s.tick) ∧
    (s.cmdReady = false →
      (t.cmdReady = true ↔ s.rspValid = true ∧ s.portIn.rspReady = true) ∧
      (t.cmdReady = true → ∃ r, s.response = some r ∧ t.received = s.received ++ [r]) ∧
      (t.cmdReady = false → t.received = s.received))

/-- R132: CMD and DIN are sampled where a command is accepted; at every other time the engine ignores them, and while
CMD_READY = 0 it ignores CMD_VALID as well. -/
def Obligations.CommandLinesAreIgnoredOtherwise : Prop :=
  (∀ (p : PortIn) (s t : State), p.rstN = true → p.cmdValid = true → s.cmdReady = true → portStep p s = .next t →
    t.channel = .busy p.command) ∧
  (∀ (p q : PortIn) (s : State), p.rstN = q.rstN → p.rspReady = q.rspReady →
    (s.cmdReady = false ∨ (p.cmdValid = false ∧ q.cmdValid = false)) →
    portStep p s = portStep q s)

/-- R136's fairness as the model has it: from any state with no reset and a legal ERRCODE, an accepted command completes
and its response is offered in the next step, whatever the command is. -/
def Obligations.AcceptedCommandCompletes : Prop :=
  ∀ (s : State) (c : Command), s.channel = .busy c → s.portIn.rstN = true → s.errcode.toNat ≤ 3 →
    ∃ t, step s = .next t ∧ execute c s.tick = .next t ∧ t.rspValid = true

/-- R127: between commands, while the host offers none and does not reset, the engine holds its whole state for any
number of steps. -/
def Obligations.IdleEngineHoldsItsState : Prop :=
  ∀ (s : State) (k : Nat), s.channel = .ready → s.errcode.toNat ≤ 3 →
    (∀ p ∈ s.inputs.take k, p.rstN = true ∧ p.cmdValid = false) →
    Host.Core.run core k s = .next { s with inputs := s.inputs.drop k }

/-! ### Byte order, padding, compression, serialization -/

/-- R36: payload byte k is DIN[8k+7:8k] and message order is increasing k; DIN[32j+31:32j] read as a word is the
little-endian word of payload bytes 4j..4j+3. -/
def Obligations.PayloadWordsAreLittleEndian : Prop :=
  ∀ din : Payload,
    (∀ n k : Nat, k < n → (payloadBytes n din)[k]? = some (din.extractLsb' (8 * k) 8)) ∧
    (∀ j : Nat, j < 16 → din.extractLsb' (32 * j) 32 =
      le32 (din.extractLsb' (8 * (4 * j)) 8) (din.extractLsb' (8 * (4 * j + 1)) 8)
        (din.extractLsb' (8 * (4 * j + 2)) 8) (din.extractLsb' (8 * (4 * j + 3)) 8))

/-- R40, R92: digest byte k is RSP_DATA[8k+7:8k], and after serialization RSP_DATA[31:0] = A, [63:32] = B, [95:64] = C
and [127:96] = D. -/
def Obligations.ResponsePacking : Prop :=
  (∀ (d : Digest) (k : Nat) (_ : k < 16), (packDigest d).extractLsb' (8 * k) 8 = d[k]) ∧
  (∀ H : Quad,
    (packDigest (serialize H)).extractLsb' 0 32 = H.a ∧ (packDigest (serialize H)).extractLsb' 32 32 = H.b ∧
    (packDigest (serialize H)).extractLsb' 64 32 = H.c ∧ (packDigest (serialize H)).extractLsb' 96 32 = H.d)

/-- R91: Serialize is the bytes of A, B, C, D in that word order, each word's least significant byte first, and is a
bijection between 4-word tuples and 16-byte sequences. -/
def Obligations.SerializeIsBijective : Prop :=
  (∀ H : Quad, (serialize H).toList =
    [H.a, H.b, H.c, H.d].flatMap fun w =>
      [w.extractLsb' 0 8, w.extractLsb' 8 8, w.extractLsb' 16 8, w.extractLsb' 24 8]) ∧
  Function.Bijective serialize

/-- R63: the padding contract. The padded stream is the message, one byte 0x80, zero bytes until the length is 56 modulo
64, and the 8 little-endian bytes of (8·L) mod 2^64; no more zero bytes than that takes. -/
def Obligations.PaddingContract : Prop :=
  ∀ msg : List Byte, ∃ z, z < 64 ∧ (msg.length + 1 + z) % 64 = 56 ∧
    (pad msg).flatMap (fun blk => blk.toList) =
      msg ++ [0x80] ++ List.replicate z 0 ++
        (List.range 8).map (fun k => (BitVec.ofNat 64 (8 * msg.length)).extractLsb' (8 * k) 8)

/-- R69: the padded length is 64·nfull + 64 when R ≤ 55 and 64·nfull + 128 when R ≥ 56, the smallest multiple of 64 that
is at least L + 9, and the number of blocks is floor((L + 8) / 64) + 1. -/
def Obligations.PaddedLength : Prop :=
  ∀ msg : List Byte,
    64 * (pad msg).length = 64 * (msg.length / 64) + (if msg.length % 64 ≤ 55 then 64 else 128) ∧
    msg.length + 9 ≤ 64 * (pad msg).length ∧ 64 * (pad msg).length < msg.length + 9 + 64 ∧
    (pad msg).length = (msg.length + 8) / 64 + 1

/-- R68, R97: the trailer is the message's bit length modulo 2^64, so lengths that differ by a multiple of 2^61 bytes
have the same trailer, and no length is refused. -/
def Obligations.TrailerWraps : Prop :=
  ∀ msg msg' : List Byte, (bitLength msg).toNat = 8 * msg.length % 2 ^ 64 ∧
    (bitLength msg = bitLength msg' ↔ msg.length % 2 ^ 61 = msg'.length % 2 ^ 61)

/-- R73 to R76: the four round functions bit by bit. F selects y where x is 1 and z where x is 0; G selects x where z is
1 and y where z is 0; H_fn is the exclusive or of the three; I is y changed where x is 1 or z is 0. -/
def Obligations.RoundFunctionsBitwise : Prop :=
  ∀ (x y z : Word) (k : Nat), k < 32 →
    (roundFn .one x y z).getLsbD k = (if x.getLsbD k then y.getLsbD k else z.getLsbD k) ∧
    (roundFn .two x y z).getLsbD k = (if z.getLsbD k then x.getLsbD k else y.getLsbD k) ∧
    (roundFn .three x y z).getLsbD k = ((x.getLsbD k ^^ y.getLsbD k) ^^ z.getLsbD k) ∧
    (roundFn .four x y z).getLsbD k = (if x.getLsbD k || !z.getLsbD k then !y.getLsbD k else y.getLsbD k)

/-- R10: rotl32 moves bit k to bit (k + s) mod 32, for every amount 1 to 31. -/
def Obligations.RotationMovesBits : Prop :=
  ∀ (x : Word) (s k : Nat), 1 ≤ s → s ≤ 31 → k < 32 → (rotl32 x s).getLsbD ((k + s) % 32) = x.getLsbD k

/-- R77 to R80: the parameters of every step: its function is the group's; its message index is the closed form, read
with the global step number or with the position in the group, and within each group each message word is read exactly
once; its rotation amount is S_g[i mod 4], between 4 and 23. -/
def Obligations.StepParameters : Prop :=
  (∀ i : Fin 64,
    (i.val < 16 → roundFn (groupOf i) = roundF) ∧
    (16 ≤ i.val → i.val < 32 → roundFn (groupOf i) = roundG) ∧
    (32 ≤ i.val → i.val < 48 → roundFn (groupOf i) = roundH) ∧
    (48 ≤ i.val → roundFn (groupOf i) = roundI) ∧
    (i.val < 16 → (msgIndex i).val = i.val) ∧
    (16 ≤ i.val → i.val < 32 → (msgIndex i).val = (1 + 5 * i.val) % 16 ∧
      (msgIndex i).val = (1 + 5 * (i.val - 16)) % 16) ∧
    (32 ≤ i.val → i.val < 48 → (msgIndex i).val = (5 + 3 * i.val) % 16 ∧
      (msgIndex i).val = (5 + 3 * (i.val - 32)) % 16) ∧
    (48 ≤ i.val → (msgIndex i).val = 7 * i.val % 16 ∧ (msgIndex i).val = 7 * (i.val - 48) % 16) ∧
    rotAmount i = [7, 12, 17, 22, 5, 9, 14, 20, 4, 11, 16, 23, 6, 10, 15, 21].getD (4 * (i.val / 16) + i.val % 4) 0 ∧
    4 ≤ rotAmount i ∧ rotAmount i ≤ 23) ∧
  (∀ i j : Fin 64, i.val / 16 = j.val / 16 → msgIndex i = msgIndex j → i = j)

/-- R37, R83 to R86: a step computes nb and rotates the roles, a ← d, b ← nb, c ← b, d ← c. That is RFC 1321's in-place form:
after all 64 steps, each of which overwrites the variable at position (-i) mod 4 and leaves the other three where they
are, the four variables hold what the rotating steps leave in a, b, c, d. So Compress adds to A, B, C, D, word by word
modulo 2^32, what the 64 in-place steps over the block's little-endian words make of them. -/
def Obligations.RoleRotationIsTheInPlaceForm : Prop :=
  (∀ (M : BlockWords) (a b c d : Word) (i : Fin 64),
    let t := a + roundFn (groupOf i) b c d + M[msgIndex i] + roundConstants[i]
    roundStep M ⟨a, b, c, d⟩ i = ⟨d, b + rotl32 t (rotAmount i), b, c⟩) ∧
  (∀ (M : BlockWords) (v : Quad),
    (List.finRange 64).foldl (inPlaceStep M) (positions v) = positions (allSteps M v)) ∧
  (∀ (H : Quad) (blk : Block),
    let M : BlockWords := Vector.ofFn fun j : Fin 16 =>
      le32 blk[4 * j.val] blk[4 * j.val + 1] blk[4 * j.val + 2] blk[4 * j.val + 3]
    positions (compress H blk) =
      Vector.zipWith (· + ·) (positions H) ((List.finRange 64).foldl (inPlaceStep M) (positions H)))

/-! ### Computations -/

/-- R33 item 1 and R72: an UPDATE extends the absorbed message by its payload bytes. -/
def Obligations.UpdateExtendsTheMessage : Prop :=
  ∀ (msg : List Byte) (s : State) (n : BitVec 7) (din : Payload), Absorbed msg s → n.toNat ≤ 64 →
    ∃ t, exec (.update n din) s = .next t ∧
      Absorbed (msg ++ (List.range n.toNat).map fun k => din.extractLsb' (8 * k) 8) t

/-- R33 item 2 and R72: FINAL latches the digest of the absorbed message. -/
def Obligations.FinalDigestsTheMessage : Prop :=
  ∀ (msg : List Byte) (s : State), Absorbed msg s → ∃ t, exec .final s = .next t ∧ Finished msg t

/-- The invariant of every reachable state holds at reset. -/
def Obligations.InvariantAtReset : Prop := Inv State.reset

/-- R33: every step, under whatever the host drives on the ports, keeps the invariant. -/
def Obligations.StepKeepsTheInvariant : Prop :=
  ∀ s t : State, Inv s → step s = .next t → Inv t

/-- R113, and the end of part 1 of 93_implementation_defined.md: from a state that satisfies the invariant no step
stops: nothing is stuck, and message data, length and state values never cause a fault. -/
def Obligations.NoStepStops : Prop := ∀ s : State, Inv s → ∃ t, step s = .next t

/-- R27, R94: DIGEST is written by FINAL alone. A step that changes it is a reset or the completion of a FINAL in
ABSORB. -/
def Obligations.OnlyFinalWritesTheDigest : Prop :=
  ∀ s t : State, step s = .next t → t.digest ≠ s.digest →
    s.portIn.rstN = false ∨ ∃ c, s.channel = .busy c ∧ decode c = .ok .final ∧ s.fsm = .absorb

/-- R109: end-to-end correctness through the ports. From any state other than ERROR and ABSORB that is ready for a
command, when the host issues INIT, any UPDATEs of 0 to 64 bytes each, FINAL and READ (waiting as long as it likes
before it offers a command and before it takes a response, and with anything in the payload bytes that are ignored),
then every response has RSP_OK = 1, all but the last carry no data, and the last carries the digest of the concatenated
payloads, however the message was cut. In HostIssues an accepted command is in flight for exactly one step, as the model
has it (log entry 8). -/
def Obligations.ComputationReturnsTheDigest : Prop :=
  ∀ (s : State) (us : List (BitVec 7 × Payload)) (cs : List Command) (ports rest : List PortIn),
    (s.fsm = .idle ∨ s.fsm = .done) → s.channel = .ready → s.errcode.toNat ≤ 3 →
    cs.map decode = (computation us).map .ok → HostIssues cs ports → s.inputs = ports ++ rest →
    ∃ t, Host.Core.run core ports.length s = .next t ∧
      t.received = s.received ++ List.replicate (us.length + 2) ⟨true, 0⟩ ++
        [⟨true, packDigest (computeDigest (messageOf us))⟩] ∧
      t.fsm = .done ∧ t.errcode = s.errcode ∧ t.channel = .ready ∧ t.inputs = rest

/-- R62 with R109: the pseudo-instruction HASH, expanded and run through the ports from a ready engine in IDLE or DONE,
returns compute_digest of its bytes in the READ response, for a message of any length. In HostIssues an accepted command
is in flight for exactly one step, as the model has it (log entry 8). -/
def Obligations.HashReturnsTheDigest : Prop :=
  ∀ (s : State) (msg : List Byte) (ports rest : List PortIn),
    (s.fsm = .idle ∨ s.fsm = .done) → s.channel = .ready → s.errcode.toNat ≤ 3 →
    HostIssues ((hashInstrs msg).map encode) ports → s.inputs = ports ++ rest →
    ∃ t oks, Host.Core.run core ports.length s = .next t ∧
      t.received = s.received ++ oks ++ [⟨true, packDigest (computeDigest msg)⟩] ∧
      (∀ r ∈ oks, r = ⟨true, 0⟩) ∧ t.fsm = .done ∧ t.inputs = rest

/-- R61, R62: an assembled UPDATE is well formed, carries exactly its bytes, and has zero in every ignored payload byte;
more than 64 bytes is an assembler error. ABSORB expands to well-formed UPDATEs that carry the message. -/
def Obligations.AssemblerCarriesTheBytes : Prop :=
  (∀ bs : List Byte, bs.length ≤ 64 → ∃ n din, asmUpdate bs = some (.update n din) ∧ n.toNat = bs.length ∧
    ∀ k < 64, din.extractLsb' (8 * k) 8 = bs.getD k 0) ∧
  (∀ bs : List Byte, 64 < bs.length → asmUpdate bs = none) ∧
  (∀ msg : List Byte, ∃ us, absorbInstrs msg = updates us ∧ messageOf us = msg ∧ (∀ u ∈ us, u.1.toNat ≤ 64) ∧
    (∀ u ∈ us.take (msg.length / 64), u.1.toNat = 64) ∧
    us.length = msg.length / 64 + (if msg.length % 64 = 0 then 0 else 1))

/-! ### What the spec leaves open never matters -/

/-- R31, R111, U3 to U6: two states that agree on everything the spec gives a value (STATE, ERRCODE, the ports; in ABSORB
also A to D, BCNT, LEN and the tail; in DONE also DIGEST) take steps of the same kind to states that agree again. So no
value of a register after reset, no stale byte of BUF, no working variable and no value left by FINAL ever reaches
STATUS or a response: the choices of log entries 1 to 4 are never observed. -/
def Obligations.UnspecifiedValuesNeverMatter : Prop :=
  ∀ s t : State, SameSpecified s t → sameOutcome SameSpecified (step s) (step t)

/-- The same over runs of any length: the responses taken, STATUS and the ports agree. -/
def Obligations.RunsAgreeOnWhatIsSpecified : Prop :=
  ∀ (k : Nat) (s t : State), SameSpecified s t →
    sameOutcome SameSpecified (Host.Core.run core k s) (Host.Core.run core k t) ∧
    ∀ s' t', Host.Core.run core k s = .next s' → Host.Core.run core k t = .next t' →
      s'.received = t'.received ∧ s'.status = t'.status

/-- R111: INIT makes a computation independent of everything before it. From IDLE or DONE, two engines whose ports,
ERRCODE and host agree have nothing left to differ in after INIT. -/
def Obligations.InitForgetsThePast : Prop :=
  ∀ s t : State, (s.fsm = .idle ∨ s.fsm = .done) → (t.fsm = .idle ∨ t.fsm = .done) →
    s.errcode = t.errcode → s.inputs = t.inputs → s.received = t.received →
    sameOutcome SameSpecified (exec .init s) (exec .init t)

/-! ### Several engines -/

/-- R47, R125: instances share no mutable state. However the steps of N engines are interleaved, each instance ends where
its own steps alone take it. That a platform is a vector of engines of which one steps at a time is the model's reading
(log entry 12). -/
def Obligations.InstancesDoNotInteract : Prop :=
  ∀ (n : Nat) (sched : List (Fin n)) (p q : Platform n), p.runSchedule sched = .next q →
    ∀ j : Fin n, Host.Core.run core (sched.count j) p[j] = .next q[j]

/-- R47: the relative order of steps of different instances is unconstrained: two instances' steps commute. The
platform is the model's reading (log entry 12). -/
def Obligations.StepsOfDifferentInstancesCommute : Prop :=
  ∀ (n : Nat) (i j : Fin n) (p q : Platform n), i ≠ j →
    p.runSchedule [i, j] = .next q → p.runSchedule [j, i] = .next q

/-! ### The round constants -/

/-- The 64 words of R82, in order. The spec takes them from general knowledge (G1; log entry 13). -/
def Obligations.RoundConstantsAreTheTable : Prop :=
  roundConstants.toList =
    [0xd76aa478, 0xe8c7b756, 0x242070db, 0xc1bdceee, 0xf57c0faf, 0x4787c62a, 0xa8304613, 0xfd469501] ++
    [0x698098d8, 0x8b44f7af, 0xffff5bb1, 0x895cd7be, 0x6b901122, 0xfd987193, 0xa679438e, 0x49b40821] ++
    [0xf61e2562, 0xc040b340, 0x265e5a51, 0xe9b6c7aa, 0xd62f105d, 0x02441453, 0xd8a1e681, 0xe7d3fbc8] ++
    [0x21e1cde6, 0xc33707d6, 0xf4d50d87, 0x455a14ed, 0xa9e3e905, 0xfcefa3f8, 0x676f02d9, 0x8d2a4c8a] ++
    [0xfffa3942, 0x8771f681, 0x6d9d6122, 0xfde5380c, 0xa4beea44, 0x4bdecfa9, 0xf6bb4b60, 0xbebfbc70] ++
    [0x289b7ec6, 0xeaa127fa, 0xd4ef3085, 0x04881d05, 0xd9d4d039, 0xe6db99e5, 0x1fa27cf8, 0xc4ac5665] ++
    [0xf4292244, 0x432aff97, 0xab9423a7, 0xfc93a039, 0x655b59c3, 0x8f0ccc92, 0xffeff47d, 0x85845dd1] ++
    [0x6fa87e4f, 0xfe2ce6e0, 0xa3014314, 0x4e0811a1, 0xf7537e82, 0xbd3af235, 0x2ad7d2bb, 0xeb86d391]
end

