-- ==== Sys2Proof/Laws/Datapath.lean ====
section
/-! SUPPORT. Small laws of the datapath functions: byte order, the serializer, folding blocks. -/

namespace Sys2Proof.Machine

/-- The serializer's bytes are `bytes_le32` of A, B, C and D, in that order (R91). -/
theorem serialize_toList (H : Quad) :
    (serialize H).toList = bytesLe32 H.a ++ bytesLe32 H.b ++ bytesLe32 H.c ++ bytesLe32 H.d := by
  simp [serialize, bytesLe32, bytesLe, List.range_succ]

@[simp] theorem bytesLe_length {w : Nat} (count : Nat) (v : BitVec w) : (bytesLe count v).length = count := by
  simp [bytesLe]

@[simp] theorem payloadBytes_length (n : Nat) (din : Payload) : (payloadBytes n din).length = n := by
  simp [payloadBytes]

@[simp] theorem bytesLe64_length (v : BitLen) : (bytesLe64 v).length = 8 := by simp [bytesLe64]

theorem packLe_nil (w : Nat) : packLe w [] = 0 := rfl

theorem packLe_cons (w : Nat) (b : Byte) (bs : List Byte) :
    packLe w (b :: bs) = (packLe w bs <<< 8) ||| b.setWidth w := rfl

/-- Packing and taking a byte are inverse: byte `k` of the packed string is the list's byte `k`. -/
theorem byteOf_packLe (w : Nat) (bs : List Byte) (k : Nat) (hk : 8 * k + 8 ≤ w) :
    byteOf (packLe w bs) k = bs.getD k 0 := by
  induction bs generalizing k with
  | nil => simp [packLe_nil, byteOf]
  | cons b bs ih =>
    rw [packLe_cons]
    apply BitVec.eq_of_getLsbD_eq
    intro i hi
    simp only [byteOf, BitVec.getLsbD_extractLsb', BitVec.getLsbD_or, BitVec.getLsbD_shiftLeft, BitVec.getLsbD_setWidth]
    cases k with
    | zero => simp [hi, show i < w by omega]
    | succ k =>
      have byte := congrArg (fun v => v.getLsbD i) (ih k (by omega))
      simp only [byteOf, BitVec.getLsbD_extractLsb', hi, decide_true, Bool.true_and] at byte
      simp only [List.getD_cons_succ, ← byte]
      simp [hi, show 8 * (k + 1) + i < w by omega, show ¬ 8 * (k + 1) + i < 8 by omega,
        show 8 * (k + 1) + i - 8 = 8 * k + i by omega, BitVec.getLsbD_of_ge b (8 * (k + 1) + i) (by omega)]

@[simp] theorem toBlock_getElem (bs : List Byte) (k : Nat) (hk : k < 64) : (toBlock bs)[k] = bs.getD k 0 := by
  simp [toBlock]

/-- A list of 64 bytes is the block made of it. -/
theorem toBlock_toList (bs : List Byte) (h : bs.length = 64) : (toBlock bs).toList = bs := by
  apply List.ext_getElem
  · simp [h]
  · intro k _ h2
    simp [toBlock, List.getElem?_eq_getElem h2]

@[simp] theorem foldBlocks_nil (H : Quad) : foldBlocks H [] = H := rfl

@[simp] theorem foldBlocks_cons (H : Quad) (blk : Block) (blks : List Block) :
    foldBlocks H (blk :: blks) = foldBlocks (compress H blk) blks := rfl

theorem foldBlocks_append (H : Quad) (as bs : List Block) :
    foldBlocks H (as ++ bs) = foldBlocks (foldBlocks H as) bs := List.foldl_append

/-- The padded tail fills whole blocks: 64 bytes when the tail has at most 55, 128 when it has 56 to 63 (R66, R67). -/
theorem paddedTail_length (tail : List Byte) (bitlen : BitLen) (h : tail.length < 64) :
    (paddedTail tail bitlen).length = if tail.length < 56 then 64 else 128 := by
  simp only [paddedTail, zeros, List.length_append, List.length_cons, List.length_nil, List.length_replicate,
    bytesLe64_length]
  split <;> omega

/-- PadTail gives one block or two, never none (C4). -/
theorem padTail_length (tail : List Byte) (bitlen : BitLen) :
    (padTail tail bitlen).length = if tail.length < 56 then 1 else 2 := by
  unfold padTail
  split <;> rfl

@[simp] theorem fullBlocks_length (msg : List Byte) : (fullBlocks msg).length = msg.length / 64 := by
  simp [fullBlocks, fullCount]

@[simp] theorem tailBytes_length (msg : List Byte) : (tailBytes msg).length = msg.length % 64 := by
  simp [tailBytes, fullCount]
  omega

end Sys2Proof.Machine
end

