-- ==== Sys2Proof/Laws/State.lean ====
section
/-! SUPPORT. What each shared update of the state does to each field, true by unfolding once; later proofs cite these
and do not unfold a record update. -/

namespace Sys2Proof.Machine

/-! `respond` writes the channel alone. -/

@[simp] theorem respond_work (ok : Bool) (data : RspData) (s : State) : (respond ok data s).work = s.work := rfl
@[simp] theorem respond_H (ok : Bool) (data : RspData) (s : State) : (respond ok data s).H = s.H := rfl
@[simp] theorem respond_fsm (ok : Bool) (data : RspData) (s : State) : (respond ok data s).fsm = s.fsm := rfl
@[simp] theorem respond_errcode (ok : Bool) (data : RspData) (s : State) : (respond ok data s).errcode = s.errcode := rfl
@[simp] theorem respond_buf (ok : Bool) (data : RspData) (s : State) : (respond ok data s).buf = s.buf := rfl
@[simp] theorem respond_bcnt (ok : Bool) (data : RspData) (s : State) : (respond ok data s).bcnt = s.bcnt := rfl
@[simp] theorem respond_len (ok : Bool) (data : RspData) (s : State) : (respond ok data s).len = s.len := rfl
@[simp] theorem respond_digest (ok : Bool) (data : RspData) (s : State) : (respond ok data s).digest = s.digest := rfl
@[simp] theorem respond_channel (ok : Bool) (data : RspData) (s : State) : (respond ok data s).channel = .responding ⟨ok, data⟩ := rfl
@[simp] theorem respond_inputs (ok : Bool) (data : RspData) (s : State) : (respond ok data s).inputs = s.inputs := rfl
@[simp] theorem respond_received (ok : Bool) (data : RspData) (s : State) : (respond ok data s).received = s.received := rfl
@[simp] theorem respond_free (ok : Bool) (data : RspData) (s : State) : (respond ok data s).free = s.free := rfl

/-! `errorEntry` writes STATE and ERRCODE alone. -/

@[simp] theorem errorEntry_work (c : Cause) (s : State) : (errorEntry c s).work = s.work := rfl
@[simp] theorem errorEntry_H (c : Cause) (s : State) : (errorEntry c s).H = s.H := rfl
@[simp] theorem errorEntry_fsm (c : Cause) (s : State) : (errorEntry c s).fsm = .error := rfl
@[simp] theorem errorEntry_errcode (c : Cause) (s : State) : (errorEntry c s).errcode = causeCode c := rfl
@[simp] theorem errorEntry_buf (c : Cause) (s : State) : (errorEntry c s).buf = s.buf := rfl
@[simp] theorem errorEntry_bcnt (c : Cause) (s : State) : (errorEntry c s).bcnt = s.bcnt := rfl
@[simp] theorem errorEntry_len (c : Cause) (s : State) : (errorEntry c s).len = s.len := rfl
@[simp] theorem errorEntry_digest (c : Cause) (s : State) : (errorEntry c s).digest = s.digest := rfl
@[simp] theorem errorEntry_channel (c : Cause) (s : State) : (errorEntry c s).channel = s.channel := rfl
@[simp] theorem errorEntry_inputs (c : Cause) (s : State) : (errorEntry c s).inputs = s.inputs := rfl
@[simp] theorem errorEntry_received (c : Cause) (s : State) : (errorEntry c s).received = s.received := rfl
@[simp] theorem errorEntry_free (c : Cause) (s : State) : (errorEntry c s).free = s.free := rfl

/-! `resetEngine` gives every register its reset value and leaves the host's side. -/

@[simp] theorem resetEngine_work (s : State) : (resetEngine s).work = State.reset.work := rfl
@[simp] theorem resetEngine_H (s : State) : (resetEngine s).H = State.reset.H := rfl
@[simp] theorem resetEngine_fsm (s : State) : (resetEngine s).fsm = State.reset.fsm := rfl
@[simp] theorem resetEngine_errcode (s : State) : (resetEngine s).errcode = State.reset.errcode := rfl
@[simp] theorem resetEngine_buf (s : State) : (resetEngine s).buf = State.reset.buf := rfl
@[simp] theorem resetEngine_bcnt (s : State) : (resetEngine s).bcnt = State.reset.bcnt := rfl
@[simp] theorem resetEngine_len (s : State) : (resetEngine s).len = State.reset.len := rfl
@[simp] theorem resetEngine_digest (s : State) : (resetEngine s).digest = State.reset.digest := rfl
@[simp] theorem resetEngine_channel (s : State) : (resetEngine s).channel = State.reset.channel := rfl
@[simp] theorem resetEngine_inputs (s : State) : (resetEngine s).inputs = s.inputs := rfl
@[simp] theorem resetEngine_received (s : State) : (resetEngine s).received = s.received := rfl
@[simp] theorem resetEngine_free (s : State) : (resetEngine s).free = s.free := rfl

/-! `passOver` writes H, the working variables and the draw counter. -/

@[simp] theorem passOver_work (blk : Block) (s : State) : (passOver blk s).work = Config.freeWork s.free := rfl
@[simp] theorem passOver_H (blk : Block) (s : State) : (passOver blk s).H = compress s.H blk := rfl
@[simp] theorem passOver_fsm (blk : Block) (s : State) : (passOver blk s).fsm = s.fsm := rfl
@[simp] theorem passOver_errcode (blk : Block) (s : State) : (passOver blk s).errcode = s.errcode := rfl
@[simp] theorem passOver_buf (blk : Block) (s : State) : (passOver blk s).buf = s.buf := rfl
@[simp] theorem passOver_bcnt (blk : Block) (s : State) : (passOver blk s).bcnt = s.bcnt := rfl
@[simp] theorem passOver_len (blk : Block) (s : State) : (passOver blk s).len = s.len := rfl
@[simp] theorem passOver_digest (blk : Block) (s : State) : (passOver blk s).digest = s.digest := rfl
@[simp] theorem passOver_channel (blk : Block) (s : State) : (passOver blk s).channel = s.channel := rfl
@[simp] theorem passOver_inputs (blk : Block) (s : State) : (passOver blk s).inputs = s.inputs := rfl
@[simp] theorem passOver_received (blk : Block) (s : State) : (passOver blk s).received = s.received := rfl
@[simp] theorem passOver_free (blk : Block) (s : State) : (passOver blk s).free = s.free + 1 := rfl

/-! `storeByte` writes one byte of BUF. -/

@[simp] theorem storeByte_work (x : Byte) (s : State) : (storeByte x s).work = s.work := rfl
@[simp] theorem storeByte_H (x : Byte) (s : State) : (storeByte x s).H = s.H := rfl
@[simp] theorem storeByte_fsm (x : Byte) (s : State) : (storeByte x s).fsm = s.fsm := rfl
@[simp] theorem storeByte_errcode (x : Byte) (s : State) : (storeByte x s).errcode = s.errcode := rfl
@[simp] theorem storeByte_buf (x : Byte) (s : State) : (storeByte x s).buf = s.buf.set s.bcnt.val x := rfl
@[simp] theorem storeByte_bcnt (x : Byte) (s : State) : (storeByte x s).bcnt = s.bcnt := rfl
@[simp] theorem storeByte_len (x : Byte) (s : State) : (storeByte x s).len = s.len := rfl
@[simp] theorem storeByte_digest (x : Byte) (s : State) : (storeByte x s).digest = s.digest := rfl
@[simp] theorem storeByte_channel (x : Byte) (s : State) : (storeByte x s).channel = s.channel := rfl
@[simp] theorem storeByte_inputs (x : Byte) (s : State) : (storeByte x s).inputs = s.inputs := rfl
@[simp] theorem storeByte_received (x : Byte) (s : State) : (storeByte x s).received = s.received := rfl
@[simp] theorem storeByte_free (x : Byte) (s : State) : (storeByte x s).free = s.free := rfl

/-! `setCount` writes BCNT alone. -/

@[simp] theorem setCount_work (n : Fin 64) (s : State) : (setCount n s).work = s.work := rfl
@[simp] theorem setCount_H (n : Fin 64) (s : State) : (setCount n s).H = s.H := rfl
@[simp] theorem setCount_fsm (n : Fin 64) (s : State) : (setCount n s).fsm = s.fsm := rfl
@[simp] theorem setCount_errcode (n : Fin 64) (s : State) : (setCount n s).errcode = s.errcode := rfl
@[simp] theorem setCount_buf (n : Fin 64) (s : State) : (setCount n s).buf = s.buf := rfl
@[simp] theorem setCount_bcnt (n : Fin 64) (s : State) : (setCount n s).bcnt = n := rfl
@[simp] theorem setCount_len (n : Fin 64) (s : State) : (setCount n s).len = s.len := rfl
@[simp] theorem setCount_digest (n : Fin 64) (s : State) : (setCount n s).digest = s.digest := rfl
@[simp] theorem setCount_channel (n : Fin 64) (s : State) : (setCount n s).channel = s.channel := rfl
@[simp] theorem setCount_inputs (n : Fin 64) (s : State) : (setCount n s).inputs = s.inputs := rfl
@[simp] theorem setCount_received (n : Fin 64) (s : State) : (setCount n s).received = s.received := rfl
@[simp] theorem setCount_free (n : Fin 64) (s : State) : (setCount n s).free = s.free := rfl

/-! `addBits` writes LEN alone. -/

@[simp] theorem addBits_work (n : Nat) (s : State) : (addBits n s).work = s.work := rfl
@[simp] theorem addBits_H (n : Nat) (s : State) : (addBits n s).H = s.H := rfl
@[simp] theorem addBits_fsm (n : Nat) (s : State) : (addBits n s).fsm = s.fsm := rfl
@[simp] theorem addBits_errcode (n : Nat) (s : State) : (addBits n s).errcode = s.errcode := rfl
@[simp] theorem addBits_buf (n : Nat) (s : State) : (addBits n s).buf = s.buf := rfl
@[simp] theorem addBits_bcnt (n : Nat) (s : State) : (addBits n s).bcnt = s.bcnt := rfl
@[simp] theorem addBits_len (n : Nat) (s : State) : (addBits n s).len = s.len + BitVec.ofNat 64 (8 * n) := rfl
@[simp] theorem addBits_digest (n : Nat) (s : State) : (addBits n s).digest = s.digest := rfl
@[simp] theorem addBits_channel (n : Nat) (s : State) : (addBits n s).channel = s.channel := rfl
@[simp] theorem addBits_inputs (n : Nat) (s : State) : (addBits n s).inputs = s.inputs := rfl
@[simp] theorem addBits_received (n : Nat) (s : State) : (addBits n s).received = s.received := rfl
@[simp] theorem addBits_free (n : Nat) (s : State) : (addBits n s).free = s.free := rfl

/-! `setFsm` writes STATE alone. -/

@[simp] theorem setFsm_work (f : Fsm) (s : State) : (setFsm f s).work = s.work := rfl
@[simp] theorem setFsm_H (f : Fsm) (s : State) : (setFsm f s).H = s.H := rfl
@[simp] theorem setFsm_fsm (f : Fsm) (s : State) : (setFsm f s).fsm = f := rfl
@[simp] theorem setFsm_errcode (f : Fsm) (s : State) : (setFsm f s).errcode = s.errcode := rfl
@[simp] theorem setFsm_buf (f : Fsm) (s : State) : (setFsm f s).buf = s.buf := rfl
@[simp] theorem setFsm_bcnt (f : Fsm) (s : State) : (setFsm f s).bcnt = s.bcnt := rfl
@[simp] theorem setFsm_len (f : Fsm) (s : State) : (setFsm f s).len = s.len := rfl
@[simp] theorem setFsm_digest (f : Fsm) (s : State) : (setFsm f s).digest = s.digest := rfl
@[simp] theorem setFsm_channel (f : Fsm) (s : State) : (setFsm f s).channel = s.channel := rfl
@[simp] theorem setFsm_inputs (f : Fsm) (s : State) : (setFsm f s).inputs = s.inputs := rfl
@[simp] theorem setFsm_received (f : Fsm) (s : State) : (setFsm f s).received = s.received := rfl
@[simp] theorem setFsm_free (f : Fsm) (s : State) : (setFsm f s).free = s.free := rfl

/-! `latch` writes DIGEST alone. -/

@[simp] theorem latch_work (s : State) : (latch s).work = s.work := rfl
@[simp] theorem latch_H (s : State) : (latch s).H = s.H := rfl
@[simp] theorem latch_fsm (s : State) : (latch s).fsm = s.fsm := rfl
@[simp] theorem latch_errcode (s : State) : (latch s).errcode = s.errcode := rfl
@[simp] theorem latch_buf (s : State) : (latch s).buf = s.buf := rfl
@[simp] theorem latch_bcnt (s : State) : (latch s).bcnt = s.bcnt := rfl
@[simp] theorem latch_len (s : State) : (latch s).len = s.len := rfl
@[simp] theorem latch_digest (s : State) : (latch s).digest = serialize s.H := rfl
@[simp] theorem latch_channel (s : State) : (latch s).channel = s.channel := rfl
@[simp] theorem latch_inputs (s : State) : (latch s).inputs = s.inputs := rfl
@[simp] theorem latch_received (s : State) : (latch s).received = s.received := rfl
@[simp] theorem latch_free (s : State) : (latch s).free = s.free := rfl

/-! `forgetFraming` writes BUF, BCNT, LEN and the draw counter. -/

@[simp] theorem forgetFraming_work (s : State) : (forgetFraming s).work = s.work := rfl
@[simp] theorem forgetFraming_H (s : State) : (forgetFraming s).H = s.H := rfl
@[simp] theorem forgetFraming_fsm (s : State) : (forgetFraming s).fsm = s.fsm := rfl
@[simp] theorem forgetFraming_errcode (s : State) : (forgetFraming s).errcode = s.errcode := rfl
@[simp] theorem forgetFraming_buf (s : State) : (forgetFraming s).buf = Config.freeBuf s.free := rfl
@[simp] theorem forgetFraming_bcnt (s : State) : (forgetFraming s).bcnt = Config.freeBcnt s.free := rfl
@[simp] theorem forgetFraming_len (s : State) : (forgetFraming s).len = Config.freeLen s.free := rfl
@[simp] theorem forgetFraming_digest (s : State) : (forgetFraming s).digest = s.digest := rfl
@[simp] theorem forgetFraming_channel (s : State) : (forgetFraming s).channel = s.channel := rfl
@[simp] theorem forgetFraming_inputs (s : State) : (forgetFraming s).inputs = s.inputs := rfl
@[simp] theorem forgetFraming_received (s : State) : (forgetFraming s).received = s.received := rfl
@[simp] theorem forgetFraming_free (s : State) : (forgetFraming s).free = s.free + 1 := rfl

/-! `startComputation` writes A to D, BCNT, LEN, STATE and the channel. -/

@[simp] theorem startComputation_work (s : State) : (startComputation s).work = s.work := rfl
@[simp] theorem startComputation_H (s : State) : (startComputation s).H = iv := rfl
@[simp] theorem startComputation_fsm (s : State) : (startComputation s).fsm = .absorb := rfl
@[simp] theorem startComputation_errcode (s : State) : (startComputation s).errcode = s.errcode := rfl
@[simp] theorem startComputation_buf (s : State) : (startComputation s).buf = s.buf := rfl
@[simp] theorem startComputation_bcnt (s : State) : (startComputation s).bcnt = 0 := rfl
@[simp] theorem startComputation_len (s : State) : (startComputation s).len = 0 := rfl
@[simp] theorem startComputation_digest (s : State) : (startComputation s).digest = s.digest := rfl
@[simp] theorem startComputation_channel (s : State) : (startComputation s).channel = .responding ⟨true, 0⟩ := rfl
@[simp] theorem startComputation_inputs (s : State) : (startComputation s).inputs = s.inputs := rfl
@[simp] theorem startComputation_received (s : State) : (startComputation s).received = s.received := rfl
@[simp] theorem startComputation_free (s : State) : (startComputation s).free = s.free := rfl

/-! `returnDigest` writes the channel alone. -/

@[simp] theorem returnDigest_work (s : State) : (returnDigest s).work = s.work := rfl
@[simp] theorem returnDigest_H (s : State) : (returnDigest s).H = s.H := rfl
@[simp] theorem returnDigest_fsm (s : State) : (returnDigest s).fsm = s.fsm := rfl
@[simp] theorem returnDigest_errcode (s : State) : (returnDigest s).errcode = s.errcode := rfl
@[simp] theorem returnDigest_buf (s : State) : (returnDigest s).buf = s.buf := rfl
@[simp] theorem returnDigest_bcnt (s : State) : (returnDigest s).bcnt = s.bcnt := rfl
@[simp] theorem returnDigest_len (s : State) : (returnDigest s).len = s.len := rfl
@[simp] theorem returnDigest_digest (s : State) : (returnDigest s).digest = s.digest := rfl
@[simp] theorem returnDigest_channel (s : State) : (returnDigest s).channel = .responding ⟨true, packDigest s.digest⟩ := rfl
@[simp] theorem returnDigest_inputs (s : State) : (returnDigest s).inputs = s.inputs := rfl
@[simp] theorem returnDigest_received (s : State) : (returnDigest s).received = s.received := rfl
@[simp] theorem returnDigest_free (s : State) : (returnDigest s).free = s.free := rfl

/-! `State.tick` drops the input values of the step. -/

@[simp] theorem tick_work (s : State) : (s.tick).work = s.work := rfl
@[simp] theorem tick_H (s : State) : (s.tick).H = s.H := rfl
@[simp] theorem tick_fsm (s : State) : (s.tick).fsm = s.fsm := rfl
@[simp] theorem tick_errcode (s : State) : (s.tick).errcode = s.errcode := rfl
@[simp] theorem tick_buf (s : State) : (s.tick).buf = s.buf := rfl
@[simp] theorem tick_bcnt (s : State) : (s.tick).bcnt = s.bcnt := rfl
@[simp] theorem tick_len (s : State) : (s.tick).len = s.len := rfl
@[simp] theorem tick_digest (s : State) : (s.tick).digest = s.digest := rfl
@[simp] theorem tick_channel (s : State) : (s.tick).channel = s.channel := rfl
@[simp] theorem tick_inputs (s : State) : (s.tick).inputs = s.inputs.tail := rfl
@[simp] theorem tick_received (s : State) : (s.tick).received = s.received := rfl
@[simp] theorem tick_free (s : State) : (s.tick).free = s.free := rfl

/-! `State.withCommand` writes the channel and the host's coming input values. -/

@[simp] theorem withCommand_work (s : State) (c : Command) : (s.withCommand c).work = s.work := rfl
@[simp] theorem withCommand_H (s : State) (c : Command) : (s.withCommand c).H = s.H := rfl
@[simp] theorem withCommand_fsm (s : State) (c : Command) : (s.withCommand c).fsm = s.fsm := rfl
@[simp] theorem withCommand_errcode (s : State) (c : Command) : (s.withCommand c).errcode = s.errcode := rfl
@[simp] theorem withCommand_buf (s : State) (c : Command) : (s.withCommand c).buf = s.buf := rfl
@[simp] theorem withCommand_bcnt (s : State) (c : Command) : (s.withCommand c).bcnt = s.bcnt := rfl
@[simp] theorem withCommand_len (s : State) (c : Command) : (s.withCommand c).len = s.len := rfl
@[simp] theorem withCommand_digest (s : State) (c : Command) : (s.withCommand c).digest = s.digest := rfl
@[simp] theorem withCommand_channel (s : State) (c : Command) : (s.withCommand c).channel = .busy c := rfl
@[simp] theorem withCommand_inputs (s : State) (c : Command) : (s.withCommand c).inputs = PortIn.idle :: s.inputs := rfl
@[simp] theorem withCommand_received (s : State) (c : Command) : (s.withCommand c).received = s.received := rfl
@[simp] theorem withCommand_free (s : State) (c : Command) : (s.withCommand c).free = s.free := rfl

end Sys2Proof.Machine
end

