-- ==== Sys2Proof/Laws/Ops.lean ====
section
/-! SUPPORT. What each shared operation can do, said once. -/

namespace Sys2Proof.Machine

/-! Rejection -/

theorem reject_in_error (c : Cause) (s : State) (h : s.fsm = .error) : reject c s = respond false 0 s := by
  simp [reject, h]

theorem reject_outside_error (c : Cause) (s : State) (h : s.fsm ≠ .error) :
    reject c s = respond false 0 (errorEntry c s) := by
  simp [reject, h]

/-- A rejection leaves the machine in ERROR with the response (0, 0), and touches only STATE and ERRCODE besides. -/
theorem reject_cases (c : Cause) (s : State) :
    (s.fsm = .error ∧ reject c s = respond false 0 s) ∨
      (s.fsm ≠ .error ∧ reject c s = respond false 0 (errorEntry c s)) := by
  by_cases h : s.fsm = .error
  · exact .inl ⟨h, reject_in_error c s h⟩
  · exact .inr ⟨h, reject_outside_error c s h⟩

@[simp] theorem reject_fsm (c : Cause) (s : State) : (reject c s).fsm = .error := by
  obtain ⟨h, e⟩ | ⟨-, e⟩ := reject_cases c s <;> (rw [e]; simp [*])

@[simp] theorem reject_channel (c : Cause) (s : State) : (reject c s).channel = .responding ⟨false, 0⟩ := by
  obtain ⟨-, e⟩ | ⟨-, e⟩ := reject_cases c s <;> (rw [e]; rfl)

@[simp] theorem reject_inputs (c : Cause) (s : State) : (reject c s).inputs = s.inputs := by
  obtain ⟨-, e⟩ | ⟨-, e⟩ := reject_cases c s <;> (rw [e]; rfl)

@[simp] theorem reject_received (c : Cause) (s : State) : (reject c s).received = s.received := by
  obtain ⟨-, e⟩ | ⟨-, e⟩ := reject_cases c s <;> (rw [e]; rfl)

@[simp] theorem reject_digest (c : Cause) (s : State) : (reject c s).digest = s.digest := by
  obtain ⟨-, e⟩ | ⟨-, e⟩ := reject_cases c s <;> (rw [e]; rfl)

@[simp] theorem reject_free (c : Cause) (s : State) : (reject c s).free = s.free := by
  obtain ⟨-, e⟩ | ⟨-, e⟩ := reject_cases c s <;> (rw [e]; rfl)

/-! Legality -/

@[simp] theorem legal_error (op : Opcode) : legal op .error = false := by cases op <;> rfl

/-- Where the legality table says "executes" (R100). -/
theorem legal_cases {op : Opcode} {f : Fsm} (h : legal op f = true) :
    (op = .init ∧ (f = .idle ∨ f = .done)) ∨ (op = .update ∧ f = .absorb) ∨ (op = .final ∧ f = .absorb) ∨
      (op = .read ∧ f = .done) := by
  revert h
  cases op <;> cases f <;> decide

/-- The codes 0 to 3 are not reserved (R115). -/
theorem reservedErrcode_of_le {e : BitVec 3} (h : e.toNat ≤ 3) : reservedErrcode e = false := by
  simp [reservedErrcode]
  omega

/-- A command either runs, where the table allows it, or is rejected as SEQUENCE. -/
theorem whenLegal_cases (op : Opcode) (s : State) (body : State → State) :
    (legal op s.fsm = true ∧ whenLegal op s body = body s) ∨
      (legal op s.fsm = false ∧ whenLegal op s body = reject .sequence s) := by
  cases h : legal op s.fsm <;> simp [whenLegal, h]

/-! Executing -/

/-- Every instruction ends in a next state: the engine has no stop. -/
theorem exec_next (i : Instr) (s : State) : ∃ t, exec i s = .next t := by
  cases i with
  | init => exact ⟨_, rfl⟩
  | update n din =>
    by_cases h : 64 < n.toNat
    · exact ⟨_, if_pos h⟩
    · exact ⟨_, if_neg h⟩
  | final => exact ⟨_, rfl⟩
  | read => exact ⟨_, rfl⟩

/-- What an instruction does: it is rejected, or the legality table allows it and its effect takes place. -/
theorem exec_cases {i : Instr} {s t : State} (h : exec i s = .next t) :
    (∃ k, t = reject k s) ∨
    (legal i.opcode s.fsm = true ∧
      ((i = .init ∧ t = startComputation s) ∨
       (∃ n din, i = .update n din ∧ n.toNat ≤ 64 ∧ t = absorbPayload n.toNat din s) ∨
       (i = .final ∧ t = finishComputation s) ∨
       (i = .read ∧ t = returnDigest s))) := by
  have guarded : ∀ (op : Opcode) (body : State → State), t = whenLegal op s body →
      (∃ k, t = reject k s) ∨ (legal op s.fsm = true ∧ t = body s) := by
    intro op body h
    obtain ⟨a, e⟩ | ⟨-, e⟩ := whenLegal_cases op s body
    · exact .inr ⟨a, h.trans e⟩
    · exact .inl ⟨_, h.trans e⟩
  cases i with
  | init =>
    obtain k | ⟨a, e⟩ := guarded .init startComputation (by simpa [exec, execInit] using h.symm)
    · exact .inl k
    · exact .inr ⟨a, .inl ⟨rfl, e⟩⟩
  | update n din =>
    simp only [exec, execUpdate] at h
    split at h
    · exact .inl ⟨_, by simpa using h.symm⟩
    · obtain k | ⟨a, e⟩ := guarded .update (absorbPayload n.toNat din) (by simpa using h.symm)
      · exact .inl k
      · exact .inr ⟨a, .inr (.inl ⟨n, din, rfl, by omega, e⟩)⟩
  | final =>
    obtain k | ⟨a, e⟩ := guarded .final finishComputation (by simpa [exec, execFinal] using h.symm)
    · exact .inl k
    · exact .inr ⟨a, .inr (.inr (.inl ⟨rfl, e⟩))⟩
  | read =>
    obtain k | ⟨a, e⟩ := guarded .read returnDigest (by simpa [exec, execRead] using h.symm)
    · exact .inl k
    · exact .inr ⟨a, .inr (.inr (.inr ⟨rfl, e⟩))⟩

/-- What `execute` does: the decoded command, or a rejection with the decoder's cause. -/
theorem execute_cases (c : Command) (s : State) :
    (∃ i, decode c = .ok i ∧ execute c s = exec i s) ∨
      (∃ k, decode c = .error k ∧ execute c s = .next (reject k s)) := by
  cases h : decode c with
  | ok i => exact .inl ⟨i, rfl, by simp [execute, h]⟩
  | error k => exact .inr ⟨k, rfl, by simp [execute, h]⟩

/-- What a step does when it answers a next state: a reset, an acceptance or an idle step, an execution, or a step of
the response channel. -/
theorem portStep_cases {p : PortIn} {s t : State} (h : portStep p s = .next t) :
    (p.rstN = false ∧ t = resetEngine s) ∨
    (p.rstN = true ∧ reservedErrcode s.errcode = false ∧
      ((s.channel = .ready ∧ t = readyStep p s) ∨
       (∃ c, s.channel = .busy c ∧ execute c s = .next t) ∨
       (∃ r, s.channel = .responding r ∧ t = respondingStep p r s))) := by
  unfold portStep at h
  split at h
  · exact .inl ⟨‹_›, by simpa using h.symm⟩
  · split at h
    · cases h
    · refine .inr ⟨by simpa using ‹¬p.rstN = false›, by simpa using ‹¬reservedErrcode s.errcode = true›, ?_⟩
      unfold channelStep at h
      split at h
      · exact .inl ⟨‹_›, by simpa using h.symm⟩
      · exact .inr (.inl ⟨_, ‹_›, h⟩)
      · exact .inr (.inr ⟨_, ‹_›, by simpa using h.symm⟩)

/-! Absorbing -/

/-- One absorbed byte: BUF gains it, and either the full block is folded in or the count grows (R103). -/
theorem absorbByte_cases (s : State) (x : Byte) :
    (s.bcnt.val = 63 ∧ absorbByte s x = setCount 0 (passOver (storeByte x s).buf (storeByte x s))) ∨
      (s.bcnt.val ≠ 63 ∧ absorbByte s x = setCount (s.bcnt + 1) (storeByte x s)) := by
  by_cases h : s.bcnt.val = 63
  · exact .inl ⟨h, if_pos h⟩
  · exact .inr ⟨h, if_neg h⟩

@[simp] theorem absorbByte_buf (s : State) (x : Byte) : (absorbByte s x).buf = s.buf.set s.bcnt.val x := by
  obtain ⟨-, e⟩ | ⟨-, e⟩ := absorbByte_cases s x <;> simp [e]

@[simp] theorem absorbByte_fsm (s : State) (x : Byte) : (absorbByte s x).fsm = s.fsm := by
  obtain ⟨-, e⟩ | ⟨-, e⟩ := absorbByte_cases s x <;> simp [e]

@[simp] theorem absorbByte_errcode (s : State) (x : Byte) : (absorbByte s x).errcode = s.errcode := by
  obtain ⟨-, e⟩ | ⟨-, e⟩ := absorbByte_cases s x <;> simp [e]

@[simp] theorem absorbByte_len (s : State) (x : Byte) : (absorbByte s x).len = s.len := by
  obtain ⟨-, e⟩ | ⟨-, e⟩ := absorbByte_cases s x <;> simp [e]

@[simp] theorem absorbByte_digest (s : State) (x : Byte) : (absorbByte s x).digest = s.digest := by
  obtain ⟨-, e⟩ | ⟨-, e⟩ := absorbByte_cases s x <;> simp [e]

@[simp] theorem absorbByte_channel (s : State) (x : Byte) : (absorbByte s x).channel = s.channel := by
  obtain ⟨-, e⟩ | ⟨-, e⟩ := absorbByte_cases s x <;> simp [e]

@[simp] theorem absorbByte_inputs (s : State) (x : Byte) : (absorbByte s x).inputs = s.inputs := by
  obtain ⟨-, e⟩ | ⟨-, e⟩ := absorbByte_cases s x <;> simp [e]

@[simp] theorem absorbByte_received (s : State) (x : Byte) : (absorbByte s x).received = s.received := by
  obtain ⟨-, e⟩ | ⟨-, e⟩ := absorbByte_cases s x <;> simp [e]

/-- What absorbing any bytes leaves alone (R112): STATE, ERRCODE, LEN, DIGEST, the channel and the host's side. -/
theorem absorbBytes_frame (s : State) (bs : List Byte) :
    (absorbBytes s bs).fsm = s.fsm ∧ (absorbBytes s bs).errcode = s.errcode ∧ (absorbBytes s bs).len = s.len ∧
      (absorbBytes s bs).digest = s.digest ∧ (absorbBytes s bs).channel = s.channel ∧
      (absorbBytes s bs).inputs = s.inputs ∧ (absorbBytes s bs).received = s.received := by
  induction bs generalizing s with
  | nil => exact ⟨rfl, rfl, rfl, rfl, rfl, rfl, rfl⟩
  | cons b bs ih => simpa [absorbBytes] using ih (absorbByte s b)

@[simp] theorem absorbBytes_nil (s : State) : absorbBytes s [] = s := rfl

@[simp] theorem absorbBytes_cons (s : State) (b : Byte) (bs : List Byte) :
    absorbBytes s (b :: bs) = absorbBytes (absorbByte s b) bs := rfl

theorem absorbBytes_append (s : State) (as bs : List Byte) :
    absorbBytes s (as ++ bs) = absorbBytes (absorbBytes s as) bs := List.foldl_append

/-! Finishing -/

/-- Folding final blocks writes H, the working variables and the draw counter alone. -/
theorem foldPasses_eq (blks : List Block) (s : State) :
    ∃ w k, foldPasses blks s = { s with H := foldBlocks s.H blks, work := w, free := k } := by
  induction blks generalizing s with
  | nil => exact ⟨s.work, s.free, rfl⟩
  | cons blk blks ih =>
    obtain ⟨w, k, e⟩ := ih (passOver blk s)
    exact ⟨w, k, by simpa [foldPasses, foldBlocks] using e⟩

/-- What FINAL's datapath leaves (R104): H and DIGEST are determined by H, the tail and LEN; the working variables and
the draw counter take some values; the rest is as before. -/
theorem latchDigest_eq (s : State) :
    ∃ w k, latchDigest s =
      { s with
        H := foldBlocks s.H (padTail s.tail s.len)
        digest := serialize (foldBlocks s.H (padTail s.tail s.len))
        work := w
        free := k } := by
  obtain ⟨w, k, e⟩ := foldPasses_eq (padTail s.tail s.len) s
  exact ⟨w, k, by simp [latchDigest, latch, e]⟩

/-- What FINAL leaves where it executes (R104). -/
theorem finishComputation_eq (s : State) :
    ∃ w buf bcnt len k, finishComputation s =
      { s with
        H := foldBlocks s.H (padTail s.tail s.len)
        digest := serialize (foldBlocks s.H (padTail s.tail s.len))
        work := w
        buf := buf
        bcnt := bcnt
        len := len
        free := k
        fsm := .done
        channel := .responding ⟨true, 0⟩ } := by
  obtain ⟨w, k, e⟩ := latchDigest_eq s
  exact ⟨w, Config.freeBuf k, Config.freeBcnt k, Config.freeLen k, k + 1, by
    simp [finishComputation, forgetFraming, setFsm, respond, e]⟩

end Sys2Proof.Machine
end

