-- ==== Sys2Proof/Laws/Absorb.lean ====
section
/-! SUPPORT. What absorbing bytes does, said once in closed form (spec/44_commands.md R102, R103). -/

namespace Sys2Proof.Machine

theorem tail_length (s : State) : s.tail.length = s.bcnt.val := by
  simp [State.tail]

/-- Storing a byte at BCNT extends the tail by that byte. -/
theorem tail_storeByte (s : State) (x : Byte) :
    (s.buf.set s.bcnt.val x).toList.take (s.bcnt.val + 1) = s.tail ++ [x] := by
  unfold State.tail
  apply List.ext_getElem
  · simp
  · intro k h1 h2
    simp only [List.length_append, List.length_take, Vector.length_toList, List.length_cons, List.length_nil] at h2
    simp only [List.getElem_take, List.getElem_append, List.length_take, Vector.length_toList,
      Vector.getElem_toList, Vector.getElem_set]
    have := s.bcnt.isLt
    split
    · rename_i h
      simp [h]
    · rw [dif_pos (by omega)]

/-- BCNT counts up without wrapping below 63. -/
theorem count_succ (b : Fin 64) (h : b.val ≠ 63) : (b + 1).val = b.val + 1 := by
  rw [Fin.val_add]
  simp
  omega

/-- What at most 64 absorbed bytes leave: byte j stands at position (BCNT + j) mod 64 and the rest of BUF is as before;
if the buffer did not fill, H, the working variables and the draw counter are as before and the tail is longer; if it
filled, H has folded in the full block and the tail is the rest. -/
structure AbsorbSpec (s t : State) (bs : List Byte) : Prop where
  buf : ∀ (k : Nat) (_ : k < 64),
    (∀ j, (hj : j < bs.length) → (s.bcnt.val + j) % 64 = k → t.buf[k] = bs[j]) ∧
    ((∀ j < bs.length, (s.bcnt.val + j) % 64 ≠ k) → t.buf[k] = s.buf[k])
  below : s.bcnt.val + bs.length < 64 →
    t.H = s.H ∧ t.work = s.work ∧ t.free = s.free ∧ t.bcnt.val = s.bcnt.val + bs.length ∧ t.tail = s.tail ++ bs
  filled : 64 ≤ s.bcnt.val + bs.length →
    t.H = compress s.H (toBlock ((s.tail ++ bs).take 64)) ∧ t.bcnt.val = s.bcnt.val + bs.length - 64 ∧
      t.tail = (s.tail ++ bs).drop 64

theorem absorbBytes_spec (bs : List Byte) (s : State) (hb : bs.length ≤ 64) : AbsorbSpec s (absorbBytes s bs) bs := by
  induction bs using List.reverseRecOn with
  | nil =>
    refine ⟨fun k hk => ⟨fun j hj => by simp at hj, fun _ => rfl⟩, fun _ => by simp, fun h => absurd h (by have := s.bcnt.isLt; simp)⟩
  | append_singleton bs x ih =>
    simp only [List.length_append, List.length_cons, List.length_nil] at hb
    obtain ⟨h1, h2, h3⟩ := ih (by omega)
    rw [absorbBytes_append, absorbBytes_cons, absorbBytes_nil]
    set u := absorbBytes s bs with hu
    have hlt := s.bcnt.isLt
    have hcnt : u.bcnt.val = (s.bcnt.val + bs.length) % 64 := by
      by_cases hc : s.bcnt.val + bs.length < 64
      · rw [(h2 hc).2.2.2.1]; omega
      · rw [(h3 (by omega)).2.1]; omega
    refine ⟨?_, ?_, ?_⟩
    · intro k hk
      rw [absorbByte_buf]
      constructor
      · intro j hj hjk
        simp only [List.length_append, List.length_cons, List.length_nil] at hj
        rw [Vector.getElem_set]
        by_cases hjl : j = bs.length
        · subst hjl; rw [if_pos (by omega)]; simp
        · rw [if_neg (by omega), (h1 k hk).1 j (by omega) hjk, List.getElem_append_left]
      · intro hj
        simp only [List.length_append, List.length_cons, List.length_nil] at hj
        rw [Vector.getElem_set, if_neg (by have := hj bs.length (by omega); omega)]
        exact (h1 k hk).2 (fun j hj' => hj j (by omega))
    · intro hs
      simp only [List.length_append, List.length_cons, List.length_nil] at hs
      obtain ⟨a,b,c,d,e⟩ := h2 (by omega)
      obtain ⟨h63, _⟩ | ⟨h63, e'⟩ := absorbByte_cases u x
      · omega
      · rw [e']
        refine ⟨a, b, c, ?_, ?_⟩
        · simp [count_succ _ h63, d]; omega
        · have := tail_storeByte u x
          simp only [State.tail, setCount_buf, setCount_bcnt, storeByte_buf, count_succ _ h63] at this ⊢
          rw [this]; change u.tail ++ [x] = _; rw [e]; simp [State.tail]
    · intro hs
      simp only [List.length_append, List.length_cons, List.length_nil] at hs
      obtain ⟨h63, e'⟩ | ⟨h63, e'⟩ := absorbByte_cases u x
      · have : s.bcnt.val + bs.length = 63 := by omega
        obtain ⟨a,b,c,d,e⟩ := h2 (by omega)
        rw [e']
        have full : toBlock ((s.tail ++ (bs ++ [x])).take 64) = (storeByte x u).buf := by
          have := tail_storeByte u x
          rw [show u.bcnt.val + 1 = 64 by omega] at this
          rw [← List.append_assoc, ← e, ← this, storeByte_buf]
          apply Vector.toList_inj.mp
          rw [toBlock_toList]
          · simp only [List.take_take]; exact List.take_of_length_le (by simp)
          · simp
        refine ⟨?_, ?_, ?_⟩
        · simp only [setCount_H, passOver_H, storeByte_H, a, full]
        · simp; omega
        · simp only [State.tail, setCount_bcnt, setCount_buf]
          have : (s.buf.toList.take s.bcnt.val).length = s.bcnt.val := tail_length s
          simp; omega
      · have h64 : 64 ≤ s.bcnt.val + bs.length := by omega
        obtain ⟨a,b,c⟩ := h3 h64
        rw [e']
        refine ⟨?_, ?_, ?_⟩
        · simp only [setCount_H, storeByte_H, a]
          congr 2
          rw [← List.append_assoc, List.take_append_of_le_length (l₁ := s.tail ++ bs)]
          rw [List.length_append, tail_length]; exact h64
        · change (u.bcnt + 1).val = _; rw [count_succ _ h63, b]; simp only [List.length_append, List.length_cons, List.length_nil]; clear hu ih h1 h2 h3; omega
        · have := tail_storeByte u x
          have hl := tail_length s
          simp only [State.tail, setCount_buf, setCount_bcnt, storeByte_buf, count_succ _ h63] at this ⊢
          rw [this]; change u.tail ++ [x] = _; rw [c, ← List.append_assoc, List.drop_append_of_le_length (l₁ := List.take s.bcnt.val s.buf.toList ++ bs)]
          · rfl
          · have hl' : (List.take s.bcnt.val s.buf.toList).length = s.bcnt.val := hl
            rw [List.length_append, hl']; exact h64

end Sys2Proof.Machine
end

