-- ==== Sys2Proof/Laws/PerInstr.lean ====
section
/-! SUPPORT. Facts about every instruction as syntax, one lemma for each constructor. -/

namespace Sys2Proof.Laws.EncodedReserved

/-- The reserved bits RSVD of an encoded command are 0 (R51). -/
def Statement (i : Instr) : Prop := rsvdField (encode i).cmd = 0

theorem rsvd_packFields : ∀ n : BitVec 7, rsvdField (packFields 0 n 2) = 0 := by decide

theorem init : Statement .init := show rsvdField (packFields 0 0 1) = 0 by decide

theorem update (n : BitVec 7) (din : Payload) : Statement (.update n din) := rsvd_packFields n

theorem final : Statement .final := show rsvdField (packFields 0 0 3) = 0 by decide

theorem read : Statement .read := show rsvdField (packFields 0 0 4) = 0 by decide

end Sys2Proof.Laws.EncodedReserved
end

