-- ==== Sys2Proof/Laws/Run.lean ====
section
/-! SUPPORT. Runs of the machine, and what the host drives. -/

namespace Sys2Proof.Machine

/-! A run, one step at a time and in parts. -/

theorem run_next {s t : State} {k : Nat} (h : step s = .next t) :
    Host.Core.run core (k + 1) s = Host.Core.run core k t := by
  simp only [Host.Core.run, show core.step s = _ from h]

theorem run_fault {s : State} {k : Nat} {f : Fault} (h : step s = .fault f) :
    Host.Core.run core (k + 1) s = .fault f := by
  simp only [Host.Core.run, show core.step s = _ from h]

theorem run_refused {s : State} {k : Nat} {r : Refusal} (h : step s = .refused r) :
    Host.Core.run core (k + 1) s = .refused r := by
  simp only [Host.Core.run, show core.step s = _ from h]

theorem run_add (a b : Nat) (s t : State) (h : Host.Core.run core a s = .next t) :
    Host.Core.run core (a + b) s = Host.Core.run core b t := by
  induction a generalizing s with
  | zero =>
    cases h
    rw [Nat.zero_add]
  | succ a ih =>
    rw [show a + 1 + b = (a + b) + 1 by omega]
    simp only [Host.Core.run] at h ⊢
    split at h
    · exact ih _ h
    · cases h
    · cases h

/-- The plain script is one way for the host to issue the commands. -/
theorem hostScript_issues (cs : List Command) : HostIssues cs (hostScript cs) := by
  induction cs with
  | nil => exact .finished
  | cons c cs ih => exact .command (.offer c) .idle .take [] rfl rfl rfl (by simp) rfl rfl ih

end Sys2Proof.Machine
end

