-- ==== Sys2Proof/Tests/Slice0.lean ====
section
/-! SUPPORT. The model's own tests. Expected values are the vectors of spec/95_test_vectors.md and the worked examples of
the rules; then, for every obligation with hypotheses, a witness that meets them together. -/

-- One theorem after another: elaborated at the same time, the kernel evaluations below wait for one another, and Lean
-- starts a thread, with its stack, for each that waits.
set_option Elab.async false

namespace Sys2Proof.Tests

open Sys2Proof.Machine

/-! ### Helpers -/

/-- The state after reset, moved to a controller state. -/
def inState (f : Fsm) : State :=
  { State.reset with fsm := f, errcode := if f = .error then 3 else 0 }

/-- A computation with `b` bytes 0x61 in the buffer. -/
def absorbing (b : Fin 64) : State :=
  { State.reset with
    fsm := .absorb
    H := iv
    buf := Vector.replicate 64 0x61
    bcnt := b
    len := BitVec.ofNat 64 (8 * b.val) }

/-- A computation finished, with the digest of "abc" (V3) latched. -/
def finished : State :=
  { inState .done with digest := #v[0x90, 0x01, 0x50, 0x98, 0x3c, 0xd2, 0x4f, 0xb0,
    0xd6, 0x96, 0x3f, 0x7d, 0x28, 0xe1, 0x7f, 0x72] }

/-- A command accepted and not completed. -/
def busyWith (c : Command) (s : State) : State := { s with channel := .busy c }

/-- The host's next input values. -/
def withInputs (ports : List PortIn) (s : State) : State := { s with inputs := ports }

/-- The next state, if there is one. -/
def nextOf : Host.Outcome State Fault Refusal → Option State
  | .next s => some s
  | .fault _ => none
  | .refused _ => none

/-- A payload from its first bytes. -/
def payload (bs : List Byte) : Payload := packLe 512 bs

/-! ### Well-formedness -/

theorem test_wellFormed_refuses_65 : Instr.wellFormed (.update 65 0) = false := by decide

theorem test_wellFormed_accepts_64 : Instr.wellFormed (.update 64 0) = true := by decide

/-! ### Decoding: T-DEC, and each command's word written out bit by bit, RSVD then NBYTES then OP -/

theorem test_decode_init : decode ⟨0b00000_0000000_0001, 0⟩ = .ok .init := rfl

theorem test_decode_update : decode ⟨0b00000_0000011_0010, 7⟩ = .ok (.update 3 7) := by decide +kernel

theorem test_decode_update_limit : decode ⟨0b00000_1000000_0010, 7⟩ = .ok (.update 64 7) := by decide +kernel

theorem test_decode_final : decode ⟨0b00000_0000000_0011, 0⟩ = .ok .final := rfl

theorem test_decode_read : decode ⟨0b00000_0000000_0100, 0⟩ = .ok .read := rfl

theorem test_decode_illegal :
    ([0x0000, 0x0005, 0x000F, 0xFFFF].map fun w => decode ⟨w, 0⟩) = List.replicate 4 (.error .illegalOpcode) := by
  decide +kernel

theorem test_decode_reserved :
    ([0x0412, 0x07F2, 0x0802, 0x8002, 0x0011, 0x0013, 0x0014, 0xF801, 0x0401].map fun w => decode ⟨w, 0⟩) =
      List.replicate 9 (.error .reservedField) := by decide +kernel

theorem test_encode_words :
    (encode (.update 13 0)).cmd = 0x00D2 ∧ (encode (.update 56 0)).cmd = 0x0382 ∧ (encode .init).cmd = 0x0001 ∧
      (encode .final).cmd = 0x0003 ∧ (encode .read).cmd = 0x0004 := by decide

theorem test_decodeTableWord : decodeTableWord 16 0x0032 = some (.update 3 0) ∧ decodeTableWord 16 0x0000 = none := by
  decide +kernel

/-! ### Datapath: T-FN, T-ROT, T-IDX, T-TRACE, T-PAD, T-SER -/

theorem test_roundF : roundF 0x12345678 0x9abcdef0 0x0f0f0f0f = 0x1f3f5f77 := by decide

theorem test_roundG : roundG 0x12345678 0x9abcdef0 0x0f0f0f0f = 0x92b4d6f8 := by decide

theorem test_roundH : roundH 0x12345678 0x9abcdef0 0x0f0f0f0f = 0x87878787 := by decide

theorem test_roundI : roundI 0x12345678 0x9abcdef0 0x0f0f0f0f = 0x68482808 := by decide

theorem test_rotl32 :
    rotl32 0x80000001 1 = 0x00000003 ∧ rotl32 0x12345678 28 = 0x81234567 ∧ rotl32 0x00000001 31 = 0x80000000 := by
  decide

theorem test_msgIndex : (List.finRange 64).map (fun i => (msgIndex i).val) =
    [0, 1, 2, 3, 4, 5, 6, 7, 8, 9, 10, 11, 12, 13, 14, 15] ++ [1, 6, 11, 0, 5, 10, 15, 4, 9, 14, 3, 8, 13, 2, 7, 12] ++
    [5, 8, 11, 14, 1, 4, 7, 10, 13, 0, 3, 6, 9, 12, 15, 2] ++ [0, 7, 14, 5, 12, 3, 10, 1, 8, 15, 6, 13, 4, 11, 2, 9] := by
  decide +kernel

theorem test_roundConstants : roundConstants[0] = 0xd76aa478 ∧ roundConstants[18] = 0x265e5a51 ∧
    roundConstants[47] = 0xc4ac5665 ∧ roundConstants[63] = 0xeb86d391 := by decide +kernel

/-- Steps 0 and 1 of T-TRACE. -/
theorem test_roundStep :
    let M := blockWords (toBlock [0x80])
    roundStep M iv 0 = ⟨0x10325476, 0xa5202774, 0xefcdab89, 0x98badcfe⟩ ∧
      roundStep M (roundStep M iv 0) 1 = ⟨0x98badcfe, 0xf59592dd, 0xa5202774, 0xefcdab89⟩ := by decide +kernel

/-- R85's example. -/
theorem test_compress : compress iv (toBlock [0x80]) = ⟨0xd98c1dd4, 0x04b2008f, 0x980980e9, 0x7e42f8ec⟩ := by
  decide +kernel

theorem test_serialize : (serialize ⟨0xd98c1dd4, 0x04b2008f, 0x980980e9, 0x7e42f8ec⟩).toList =
    [0xd4, 0x1d, 0x8c, 0xd9, 0x8f, 0x00, 0xb2, 0x04, 0xe9, 0x80, 0x09, 0x98, 0xec, 0xf8, 0x42, 0x7e] := by decide

theorem test_packDigest : packDigest finished.digest = 0x727fe1287d3f96d6b04fd23c98500190 := by decide

theorem test_pad_abc : (pad [0x61, 0x62, 0x63]).map (fun b => b.toList) =
    [[0x61, 0x62, 0x63, 0x80] ++ List.replicate 52 0 ++ [0x18, 0, 0, 0, 0, 0, 0, 0]] := by decide +kernel

theorem test_pad_56 : (pad (List.replicate 56 0x61)).map (fun b => b.toList) =
    [List.replicate 56 0x61 ++ [0x80, 0, 0, 0, 0, 0, 0, 0],
     List.replicate 56 0 ++ [0xc0, 0x01, 0, 0, 0, 0, 0, 0]] := by decide +kernel

/-! ### Digests: V1, V3, V4, and the boundary V5, V6, V8 of R134 -/

theorem test_digest_empty : packDigest (computeDigest []) = 0x7e42f8ec980980e904b2008fd98c1dd4 := by decide +kernel

theorem test_digest_abc : packDigest (computeDigest [0x61, 0x62, 0x63]) = 0x727fe1287d3f96d6b04fd23c98500190 := by
  decide +kernel

theorem test_digest_hello : packDigest (computeDigest
    [0x48, 0x65, 0x6c, 0x6c, 0x6f, 0x2c, 0x20, 0x57, 0x6f, 0x72, 0x6c, 0x64, 0x21]) =
    0xd40a7f8bbd64b631382879887de2a865 := by decide +kernel

theorem test_digest_55 : (computeDigest (List.replicate 55 0x61)).toList =
    [0xef, 0x17, 0x72, 0xb6, 0xdf, 0xf9, 0xa1, 0x22, 0x35, 0x85, 0x52, 0x95, 0x4a, 0xd0, 0xdf, 0x65] := by
  decide +kernel

theorem test_digest_56 : packDigest (computeDigest (List.replicate 56 0x61)) = 0x1872d10670196c4cb028f803c78a0c3b := by
  decide +kernel

theorem test_digest_64 : packDigest (computeDigest (List.replicate 64 0x61)) = 0x67733f7963034a5a4971b580d4424801 := by
  decide +kernel

/-! ### Commands: one step each -/

/-- P1 row 1. -/
theorem test_init : (nextOf (exec .init (inState .idle))).map (fun t => (t.status, t.H, t.bcnt, t.len, t.channel)) =
    some (0x01, ⟨0x67452301, 0xefcdab89, 0x98badcfe, 0x10325476⟩, 0, 0, .responding ⟨true, 0⟩) := by decide

/-- T-SEQ: INIT from ABSORB. -/
theorem test_init_in_absorb : (nextOf (exec .init (absorbing 0))).map (fun t => (t.status, t.H, t.channel)) =
    some (0x0F, iv, .responding ⟨false, 0⟩) := by decide

/-- P2 row 3: 24 bytes on top of 40 fill the buffer. -/
theorem test_update_fills : (nextOf (exec (.update 24 (payload (List.replicate 24 0x61))) (absorbing 40))).map
    (fun t => (t.status, t.H, t.bcnt, t.len)) =
    some (0x01, ⟨0x89d4ff56, 0x125cd962, 0x69cade33, 0x0033e325⟩, 0, 512) := by decide +kernel

/-- T-PAD's last row: LEN wraps, and T-UPD: the bytes stand after the tail. -/
theorem test_update_wraps : (nextOf (exec (.update 2 (payload [0x62, 0x63]))
      { absorbing 3 with len := 0xFFFFFFFFFFFFFFF8 })).map
    (fun t => (t.len, t.errcode, t.bcnt, t.tail)) =
    some (8, 0, 5, [0x61, 0x61, 0x61, 0x62, 0x63]) := by
  decide +kernel

/-- P3 row 3: two final blocks. -/
theorem test_final_56 : (nextOf (exec .final (absorbing 56))).map (fun t => (t.status, packDigest t.digest, t.channel)) =
    some (0x02, 0x1872d10670196c4cb028f803c78a0c3b, .responding ⟨true, 0⟩) := by decide +kernel

/-- P6's last row. -/
theorem test_final_in_idle : (nextOf (exec .final (inState .idle))).map (fun t => (t.status, t.channel)) =
    some (0x0F, .responding ⟨false, 0⟩) := by decide

/-- P1 row 4. -/
theorem test_read : (nextOf (exec .read finished)).map (fun t => (t.status, t.channel)) =
    some (0x02, .responding ⟨true, 0x727fe1287d3f96d6b04fd23c98500190⟩) := by decide

/-- P5 row 2. -/
theorem test_read_in_absorb : (nextOf (exec .read (absorbing 3))).map (fun t => (t.status, t.bcnt)) =
    some (0x0F, 3) := by decide

/-- P6: the error codes and their priority. -/
theorem test_error_codes : ([0x0000, 0x8005, 0x0802, 0x0013, 0x0003].map fun w =>
    (nextOf (execute ⟨w, 0⟩ (inState .idle))).map (·.status)) =
    [some 0x07, some 0x07, some 0x0B, some 0x0B, some 0x0F] := by decide

/-- P6's third row: H stays IV, BCNT and LEN stay 0. -/
theorem test_reserved_count : (nextOf (execute ⟨0x0412, 0⟩ (absorbing 0))).map
    (fun t => (t.status, t.H, t.bcnt, t.len, t.channel)) = some (0x0B, iv, 0, 0, .responding ⟨false, 0⟩) := by decide

/-- P5 row 3: INIT in ERROR changes nothing. -/
theorem test_sticky_error : nextOf (execute ⟨0x0001, 0⟩ (inState .error)) =
    some { inState .error with channel := .responding ⟨false, 0⟩ } := by decide

/-! ### The step -/

/-- P5 row 5, with a command in flight (R140). -/
theorem test_reset_wins : (nextOf (step (withInputs [.assertReset] (busyWith ⟨0x0001, 0⟩ (inState .error))))).map
    (fun t => (t.status, t.channel, t.received)) = some (0x00, .ready, []) := by decide

/-- Each row's word, placed after reset, is run by the next step; the statuses are T-SEQ's first column. -/
theorem test_placed_words : ([0x0001, 0x0032, 0x0003, 0x0004].map fun w =>
    (nextOf (step (State.reset.withFetchWord 16 w))).map (·.status)) =
    [some 0x01, some 0x0F, some 0x0F, some 0x0F] := by decide

/-- The host offers, the engine accepts (R131). -/
theorem test_accepts : (nextOf (step (withInputs [.offer ⟨0x0001, 5⟩] State.reset))).map
    (fun t => (t.channel, t.status, t.cmdReady)) = some (.busy ⟨0x0001, 5⟩, 0x00, false) := by decide +kernel

/-- The host takes the response (R131). -/
theorem test_takes : (nextOf (step (withInputs [.take] { finished with channel := .responding ⟨true, 9⟩ }))).map
    (fun t => (t.channel, t.received)) = some (.ready, [⟨true, 9⟩]) := by decide

/-- U9. -/
theorem test_reserved_errcode : step { State.reset with errcode := 4 } = .fault .reservedErrcode := rfl

/-! ### The text form -/

/-- R61's example. -/
theorem test_assemble_update : assembleLine "  update \"abc\" ; three bytes".toList =
    some [⟨0x0032, payload [0x61, 0x62, 0x63]⟩] := by decide +kernel

theorem test_assemble_hash : assembleLine "HASH x\"6162\"".toList =
    some [⟨0x0001, 0⟩, ⟨0x0022, payload [0x61, 0x62]⟩, ⟨0x0003, 0⟩, ⟨0x0004, 0⟩] := by decide +kernel

theorem test_assemble_word : assembleLine ".word 0x8005".toList = some [⟨0x8005, 0⟩] := by decide +kernel

theorem test_assemble_lines : assembleLines ["INIT".toList, "; nothing".toList, "READ".toList] =
    some [⟨0x0001, 0⟩, ⟨0x0004, 0⟩] := by decide +kernel

/-- An UPDATE of 65 bytes is an assembler error (R61). -/
theorem test_assemble_too_long : asmUpdate (List.replicate 65 0) = none := by decide

/-- P1 through the ports: INIT, UPDATE "abc", FINAL, READ as HASH expands it; here the last response of a finished
engine. -/
theorem test_read_through_ports : (nextOf (step (withInputs [.idle, .take] (busyWith ⟨0x0004, 0⟩ finished)))).map
    (fun t => t.response) = some (some ⟨true, 0x727fe1287d3f96d6b04fd23c98500190⟩) := by decide

/-! ### Witnesses: concrete states and operands that meet an obligation's hypotheses together, at the edges of each
clause's range -/

/-- The command words used below. -/
def initCmd : Command := encode .init

def abcCmd : Command := encode (.update 3 (payload [0x61, 0x62, 0x63]))

def finalCmd : Command := encode .final

def readCmd : Command := encode .read

/-- "abc" absorbed. -/
def abcState : State :=
  { State.reset with
    fsm := .absorb
    H := iv
    buf := toBlock [0x61, 0x62, 0x63]
    bcnt := 3
    len := 24 }

theorem abcState_absorbed : Absorbed [0x61, 0x62, 0x63] abcState where
  absorbing := rfl
  digestState := rfl
  count := rfl
  bitLen := by decide
  tail := by decide +kernel

theorem abcState_inv : Inv abcState where
  errcodeLegal := by decide
  errorCause := by decide
  absorbed := fun _ => ⟨_, abcState_absorbed⟩
  finished := nofun
  offered := nofun
  taken := nofun

/-- Clause by clause: an opcode 0, 5 and 15; a reserved bit; 65 and 127 bytes; a count on INIT and on READ; and the four
legal commands, UPDATE with 0 and with 64 bytes. -/
theorem witness_DecodeFollowsTheOrder :
    ([0x0000, 0x0005, 0xFFFF, 0x8001, 0x0804, 0x0412, 0x07F2, 0x0011, 0x07F4, 0x0001, 0x0002, 0x0402, 0x0003, 0x0004].map
      fun w : CmdWord => ((w.extractLsb' 0 4).toNat, (w.extractLsb' 4 7).toNat, (w.extractLsb' 11 5).toNat)) =
    [(0, 0, 0), (5, 0, 0), (15, 127, 31), (1, 0, 16), (4, 0, 1), (2, 65, 0), (2, 127, 0), (1, 1, 0), (4, 127, 0),
      (1, 0, 0), (2, 0, 0), (2, 64, 0), (3, 0, 0), (4, 0, 0)] := by decide +kernel

theorem witness_LegalWordsAreTheTable :
    (0x0000#16).extractLsb' 0 4 = 0 ∧ 5 ≤ ((0x0005#16).extractLsb' 0 4).toNat ∧
      5 ≤ ((0x000F#16).extractLsb' 0 4).toNat := by decide

theorem witness_OpcodeRowsDoNotOverlap :
    (OpcodeRow.mk .update 0xF80F 0x0002 ∈ opcodeTable ∧ (OpcodeRow.mk .update 0xF80F 0x0002).matchesWord 0x0402 = true ∧
      (nbytesField 0x0402).toNat ≤ 64) ∧
    (OpcodeRow.mk .read 0xFFFF 0x0004 ∈ opcodeTable ∧ (OpcodeRow.mk .read 0xFFFF 0x0004).matchesWord 0x0004 = true) ∧
    decode readCmd = .ok .read := by decide +kernel

theorem witness_DecodeOfEncode : Instr.wellFormed (.update 64 5) = true ∧ Instr.wellFormed .read = true := by decide

theorem witness_EncodeOfDecode : decode ⟨0x0402, 5⟩ = .ok (.update 64 5) ∧ decode ⟨0x0001, 5⟩ = .ok .init := by
  decide +kernel

/-- Two payloads of an UPDATE of 3 bytes that differ in byte 3, where it executes; and any two payloads of an UPDATE in
IDLE, of UPDATEs with a reserved count and with a reserved bit, and of a READ. -/
theorem witness_IgnoredPayloadBytesHaveNoEffect :
    ((absorbing 0).fsm = .absorb ∧ opField 0x0032 = 2 ∧ rsvdField 0x0032 = 0 ∧ (nbytesField 0x0032).toNat = 3 ∧
      (∀ k < 3, (payload [0x61, 0x62, 0x63, 0x64]).extractLsb' (8 * k) 8 =
        (payload [0x61, 0x62, 0x63]).extractLsb' (8 * k) 8) ∧
      payload [0x61, 0x62, 0x63, 0x64] ≠ payload [0x61, 0x62, 0x63]) ∧
    (inState .idle).fsm ≠ .absorb ∧ (nbytesField 0x0412).toNat = 65 ∧ rsvdField 0x8002 ≠ 0 ∧ opField 0x0004 ≠ 2 := by
  decide +kernel

/-- For InitStartsComputation, UpdateOfZeroBytes, ReadReturnsTheDigest and LegalityByState: a state of each kind. -/
theorem witness_states : (inState .idle).fsm = .idle ∧ (inState .done).fsm = .done ∧ (absorbing 63).fsm = .absorb ∧
    (inState .error).fsm = .error := by decide

/-- The tail grows to 63, the buffer fills exactly, the most bytes on the fullest buffer, no byte at all; and a count the
encoding reserves. -/
theorem witness_UpdateAbsorbsItsBytes :
    (absorbing 0).fsm = .absorb ∧ (absorbing 0).bcnt.val + (63 : BitVec 7).toNat = 63 ∧
    (absorbing 40).bcnt.val + (24 : BitVec 7).toNat = 64 ∧
    (absorbing 63).bcnt.val + (64 : BitVec 7).toNat = 127 ∧ (64 : BitVec 7).toNat ≤ 64 ∧
    (absorbing 63).bcnt.val + (0 : BitVec 7).toNat = 63 ∧ 64 < (65 : BitVec 7).toNat ∧
    opField 0x8002 = 2 ∧ rsvdField 0x8002 ≠ 0 := by decide

/-- LEN at the top of its range. -/
theorem witness_BitLengthWraps :
    let s := { absorbing 63 with len := 0xFFFFFFFFFFFFFFF8 }
    s.fsm = .absorb ∧ (1 : BitVec 7).toNat ≤ 64 ∧ (s.len.toNat + 8 * 1) % 2 ^ 64 = 0 := by decide

/-- Tails of 0, 55, 56 and 63 bytes. -/
theorem witness_FinalPadsAndLatches :
    (absorbing 0).fsm = .absorb ∧ (absorbing 0).bcnt.val ≤ 55 ∧ (absorbing 55).bcnt.val ≤ 55 ∧
      56 ≤ (absorbing 56).bcnt.val ∧ 56 ≤ (absorbing 63).bcnt.val := by decide

theorem witness_EveryCommandGetsOneResponse :
    (decode readCmd = .ok .read ∧ finished.fsm = .done) ∧ ¬ (decode readCmd = .ok .read ∧ (absorbing 0).fsm = .done) := by
  decide +kernel

/-- A next state for each clause: rejected in ERROR, rejected by the decoder, and each command where it executes. -/
theorem witness_TransitionTable :
    execute ⟨0x0001, 0⟩ (inState .error) = .next (respond false 0 (inState .error)) ∧
    execute ⟨0x0000, 0⟩ (inState .idle) = .next (reject .illegalOpcode (inState .idle)) ∧
    execute initCmd (inState .idle) = .next (startComputation (inState .idle)) ∧
    execute finalCmd (absorbing 0) = .next (finishComputation (absorbing 0)) ∧
    execute readCmd finished = .next (returnDigest finished) := ⟨rfl, rfl, rfl, rfl, rfl⟩

/-- INIT, UPDATE, FINAL and READ executed; FINAL rejected outside ERROR; INIT in ERROR. -/
theorem witness_WhatCommandsDoNotWrite :
    (exec (.update 64 5) (absorbing 63) = .next (absorbPayload 64 5 (absorbing 63)) ∧
      (absorbPayload 64 5 (absorbing 63)).fsm ≠ .error) ∧
    (exec .final (absorbing 56) = .next (finishComputation (absorbing 56)) ∧
      (finishComputation (absorbing 56)).fsm ≠ .error) ∧
    ((inState .error).fsm = .error ∧ exec .init (inState .error) = .next (respond false 0 (inState .error))) ∧
    exec .init (inState .done) = .next (startComputation (inState .done)) ∧
    exec .read finished = .next (returnDigest finished) ∧ (returnDigest finished).fsm ≠ .error ∧
    exec .final (inState .done) = .next (reject .sequence (inState .done)) ∧
    (reject .sequence (inState .done)).fsm = .error :=
  ⟨⟨rfl, by decide +kernel⟩, ⟨rfl, by decide +kernel⟩, ⟨rfl, rfl⟩, rfl, rfl, by decide, rfl, rfl⟩

theorem witness_IllegalOpcodeIsRejected :
    opField 0xFFF0 = 0 ∧ 5 ≤ (opField 0x8005).toNat ∧ 5 ≤ (opField 0x000F).toNat ∧ (absorbing 3).fsm ≠ .error := by decide

theorem witness_ReservedFieldIsRejected :
    (rsvdField 0x8002 ≠ 0 ∧ (opField 0x8002).toNat = 2) ∧ (opField 0x0412 = 2 ∧ (nbytesField 0x0412).toNat = 65) ∧
    (opField 0x0011 ≠ 2 ∧ nbytesField 0x0011 ≠ 0 ∧ (opField 0x0011).toNat = 1) ∧
    (opField 0x07F4 ≠ 2 ∧ nbytesField 0x07F4 ≠ 0 ∧ (opField 0x07F4).toNat = 4) ∧ (inState .done).fsm ≠ .error := by decide

/-- R116's examples: 0x8005 is illegal and reserved; 0x0013 in IDLE is reserved and misplaced; FINAL in IDLE is misplaced;
INIT in IDLE is none of them. -/
theorem witness_ErrorPriority :
    (inState .idle).fsm ≠ .error ∧ (5 ≤ (opField 0x8005).toNat ∧ rsvdField 0x8005 ≠ 0) ∧
    ((opField 0x0013).toNat = 3 ∧ nbytesField 0x0013 ≠ 0 ∧ (inState .idle).fsm ≠ .absorb) ∧
    ((opField 0x0003).toNat = 3 ∧ rsvdField 0x0003 = 0 ∧ nbytesField 0x0003 = 0) ∧
    ((opField 0x0001).toNat = 1 ∧ rsvdField 0x0001 = 0 ∧ nbytesField 0x0001 = 0 ∧ (inState .idle).fsm ≠ .absorb) ∧
    (withInputs [.assertReset] State.reset).portIn.rstN = false := by decide

theorem witness_ErrorsArePrecise :
    (absorbing 63).fsm ≠ .error ∧ execute readCmd (absorbing 63) = .next (reject .sequence (absorbing 63)) ∧
    (reject .sequence (absorbing 63)).fsm = .error := ⟨by decide, rfl, rfl⟩

theorem witness_ErrorAnswersEveryWord :
    let s := withInputs [.offer abcCmd] (inState .error)
    s.fsm = .error ∧ s.cmdReady = true ∧ s.portIn.rstN = true ∧ s.portIn.cmdValid = true ∧ s.errcode.toNat ≤ 3 := by
  decide +kernel

/-- A step of a machine in ERROR with reset asserted, and one that answers a command. -/
theorem witness_OnlyResetLeavesError :
    (inState .error).fsm = .error ∧
    step (withInputs [.assertReset] (inState .error)) = .next (resetEngine (inState .error)) ∧
    step (busyWith initCmd (inState .error)) = .next (respond false 0 (inState .error)) := ⟨rfl, rfl, rfl⟩

/-- A machine with a response that no one has taken, and with the given inputs to come. -/
def resetOffered (i : List PortIn) : State := withInputs i { finished with channel := .responding ⟨true, 9⟩ }

/-- An UPDATE in flight, with the reset asserted while RSP_READY is 1. -/
def resetBusy : State := withInputs [.mk false true initCmd true] (busyWith abcCmd (absorbing 62))

/-- For ResetFromAnyState and ResetValuesTheModelChooses: reset while an UPDATE is in flight, with RSP_READY 0 and with
RSP_READY 1, while a response waits, and while it would be taken. -/
theorem witness_reset :
    (resetBusy.portIn.rstN = false ∧ resetBusy.portIn.rspReady = true ∧ resetBusy.response = none ∧
      ({ resetBusy with channel := .ready } : State).response = none) ∧
    ((resetOffered [.assertReset]).portIn.rstN = false ∧ (resetOffered [.assertReset]).portIn.rspReady = false ∧
      (resetOffered [.assertReset]).response = some ⟨true, 9⟩) ∧
    ((resetOffered [.mk false false initCmd true]).portIn.rstN = false ∧
      (resetOffered [.mk false false initCmd true]).portIn.rspReady = true ∧
      (resetOffered [.mk false false initCmd true]).response = some ⟨true, 9⟩) ∧
    (withInputs [.assertReset] (busyWith abcCmd (absorbing 62))).portIn.rstN = false ∧
    (resetOffered [.assertReset, .take]).portIn.rstN = false ∧
    (resetEngine (withInputs [.take] finished)).portIn.rstN = true := by decide +kernel

theorem witness_StatusChangesAtCompletion :
    (busyWith initCmd State.reset).portIn.rstN = true ∧ (busyWith initCmd State.reset).channel = .busy initCmd ∧
    step (busyWith initCmd State.reset) = .next (startComputation State.reset) ∧
    step (withInputs [.offer initCmd] State.reset) = .next (busyWith initCmd State.reset) := ⟨rfl, rfl, rfl, rfl⟩

/-- For StepRunsTheDecodedCommand and AcceptedCommandCompletes, with the highest legal ERRCODE as well. -/
theorem witness_StepRunsTheDecodedCommand :
    (busyWith finalCmd (absorbing 56)).channel = .busy finalCmd ∧ (busyWith finalCmd (absorbing 56)).portIn.rstN = true ∧
    (busyWith finalCmd (absorbing 56)).errcode.toNat ≤ 3 ∧ decode finalCmd = .ok .final ∧
    (busyWith ⟨0x0013, 0⟩ (inState .error)).errcode.toNat ≤ 3 ∧ decode ⟨0x0013, 0⟩ = .error .reservedField :=
  ⟨rfl, rfl, by decide, rfl, by decide, rfl⟩

theorem witness_PlacedCommandRunsNext :
    State.reset.errcode.toNat ≤ 3 ∧ decodeTableWord 16 0x0402 = some (.update 64 0) ∧
      decodeTableWord 16 0x0003 = some .final := by decide +kernel

/-- A command accepted; no command; a command in flight; a response taken; a response held. -/
theorem witness_HandshakeHoldsOneCommand :
    (withInputs [.offer abcCmd] State.reset).cmdReady = true ∧
    (withInputs [.offer abcCmd] State.reset).portIn.cmdValid = true ∧
    step (withInputs [.offer abcCmd] State.reset) = .next (busyWith abcCmd State.reset) ∧
    step State.reset = .next State.reset ∧ State.reset.portIn.cmdValid = false ∧
    (busyWith readCmd finished).cmdReady = false ∧ step (busyWith readCmd finished) = .next (returnDigest finished) ∧
    step (withInputs [.take] (returnDigest finished)) =
      .next { finished with received := [⟨true, packDigest finished.digest⟩] } ∧
    step (returnDigest finished) = .next (returnDigest finished) :=
  ⟨rfl, rfl, rfl, rfl, rfl, rfl, rfl, rfl, rfl⟩

/-- Different commands on the lines while one is in flight, and different idle lines while none is. -/
theorem witness_CommandLinesAreIgnoredOtherwise :
    ((PortIn.offer initCmd).rstN = PortIn.idle.rstN ∧ (PortIn.offer initCmd).rspReady = PortIn.idle.rspReady ∧
      (busyWith readCmd finished).cmdReady = false) ∧
    ((PortIn.mk true false abcCmd false).cmdValid = false ∧ PortIn.idle.cmdValid = false ∧ State.reset.cmdReady = true) ∧
    portStep (.offer initCmd) State.reset = .next (busyWith initCmd State.reset) := by
  refine ⟨by decide, by decide, rfl⟩

theorem witness_IdleEngineHoldsItsState :
    (withInputs [.idle, .take] (absorbing 5)).channel = .ready ∧
    (withInputs [.idle, .take] (absorbing 5)).errcode.toNat ≤ 3 ∧
    (withInputs [.idle, .take] (absorbing 5)).inputs.take 7 = [.idle, .take] ∧
    PortIn.idle.cmdValid = false ∧ PortIn.take.cmdValid = false ∧ PortIn.take.rstN = true := by
  decide +kernel

/-- The first and the last index of each clause's range. -/
theorem witness_ranges :
    (0 < 16 ∧ 15 < 16) ∧ (0 < 32 ∧ 31 < 32) ∧ (1 ≤ 1 ∧ 1 ≤ 31 ∧ 31 ≤ 31) ∧
    ([0, 15, 16, 31, 32, 47, 48, 63].map fun i : Fin 64 => groupOf i) =
      [.one, .one, .two, .two, .three, .three, .four, .four] := by decide

theorem witness_UpdateExtendsTheMessage :
    Absorbed [0x61, 0x62, 0x63] abcState ∧ (0 : BitVec 7).toNat ≤ 64 ∧ (64 : BitVec 7).toNat ≤ 64 :=
  ⟨abcState_absorbed, by decide, by decide⟩

theorem witness_FinalDigestsTheMessage : Absorbed [0x61, 0x62, 0x63] abcState := abcState_absorbed

theorem witness_StepKeepsTheInvariant :
    Inv (busyWith readCmd abcState) ∧
      step (busyWith readCmd abcState) = .next (reject .sequence abcState) :=
  ⟨{ abcState_inv with
      absorbed := fun _ => ⟨_, ⟨rfl, rfl, rfl, abcState_absorbed.bitLen, abcState_absorbed.tail⟩⟩
      finished := nofun
      offered := nofun }, rfl⟩

theorem witness_NoStepStops : Inv abcState := abcState_inv

/-- Both ways in which a step changes DIGEST. -/
theorem witness_OnlyFinalWritesTheDigest :
    (step (withInputs [.assertReset] finished) = .next (resetEngine finished) ∧
      (resetEngine finished).digest ≠ finished.digest) ∧
    (step (busyWith finalCmd (absorbing 0)) = .next (finishComputation (absorbing 0)) ∧
      (finishComputation (absorbing 0)).digest ≠ (absorbing 0).digest) :=
  ⟨⟨rfl, by decide⟩, ⟨rfl, by decide +kernel⟩⟩

/-- A computation of two UPDATEs, of 0 and of 64 bytes, issued by the plain script with a wait before it, from IDLE. -/
theorem witness_ComputationReturnsTheDigest :
    let us : List (BitVec 7 × Payload) := [(0, 0), (64, 5)]
    let cs := (computation us).map encode
    let s := withInputs (PortIn.idle :: hostScript cs ++ []) State.reset
    (s.fsm = .idle ∨ s.fsm = .done) ∧ s.channel = .ready ∧ s.errcode.toNat ≤ 3 ∧
      cs.map decode = (computation us).map .ok ∧ HostIssues cs (PortIn.idle :: hostScript cs) ∧
      s.inputs = (PortIn.idle :: hostScript cs) ++ [] :=
  ⟨.inl rfl, rfl, by decide, by decide +kernel, .wait .idle rfl rfl (hostScript_issues _), rfl⟩

/-- A message of 65 bytes, from DONE. -/
theorem witness_HashReturnsTheDigest :
    let cs := (hashInstrs (List.replicate 65 0x61)).map encode
    let s := withInputs (hostScript cs ++ [.idle]) finished
    (s.fsm = .idle ∨ s.fsm = .done) ∧ s.channel = .ready ∧ s.errcode.toNat ≤ 3 ∧ HostIssues cs (hostScript cs) ∧
      s.inputs = hostScript cs ++ [.idle] :=
  ⟨.inr rfl, rfl, by decide, hostScript_issues _, rfl⟩

theorem witness_AssemblerCarriesTheBytes :
    (List.replicate 64 (0 : Byte)).length ≤ 64 ∧ 64 < (List.replicate 65 (0 : Byte)).length := by decide

/-- Two different states: other stale bytes in BUF, other working variables, another draw counter, another DIGEST. -/
theorem witness_UnspecifiedValuesNeverMatter :
    let t : State := { abcState with
      work := ⟨1, 2, 3, 4⟩
      buf := toBlock [0x61, 0x62, 0x63, 0x64]
      digest := finished.digest
      free := 9 }
    SameSpecified abcState t ∧ abcState ≠ t := by
  refine ⟨⟨rfl, rfl, rfl, rfl, rfl, fun _ => rfl, fun _ => rfl, fun _ => rfl, fun _ => ?_, nofun⟩, ?_⟩
  · decide +kernel
  · decide +kernel

/-- For RunsAgreeOnWhatIsSpecified: a run that answers a next state. -/
theorem witness_RunsAgreeOnWhatIsSpecified :
    SameSpecified State.reset State.reset ∧ Host.Core.run core 2 State.reset = .next State.reset :=
  ⟨⟨rfl, rfl, rfl, rfl, rfl, nofun, nofun, nofun, nofun, nofun⟩, rfl⟩

theorem witness_InitForgetsThePast :
    State.reset.fsm = .idle ∧ finished.fsm = .done ∧ State.reset.errcode = finished.errcode ∧
      State.reset.inputs = finished.inputs ∧ State.reset.received = finished.received := by decide

/-- Two engines, three steps in two orders. -/
theorem witness_InstancesDoNotInteract :
    let p : Platform 2 := #v[busyWith readCmd finished, State.reset]
    p.runSchedule [0, 1, 0] = .next #v[returnDigest finished, State.reset] ∧ (0 : Fin 2) ≠ 1 ∧
      p.runSchedule [0, 1] = .next #v[returnDigest finished, State.reset] := ⟨rfl, by decide, rfl⟩

end Sys2Proof.Tests
end

section
/-! PROOFS. The three fields of STATUS (spec/10_state.md R21 to R23), read back from the word that holds them. -/

namespace Sys2Proof.Machine

/-- STATUS[1:0] (R23). -/
@[simp] theorem status_stateField (s : State) : s.status.extractLsb' 0 2 = s.fsm.code :=
  BitVec.extractLsb'_append_eq_right

/-- STATUS[4:2] (R23). -/
@[simp] theorem status_errcodeField (s : State) : s.status.extractLsb' 2 3 = s.errcode :=
  calc s.status.extractLsb' 2 3
    _ = ((0 : BitVec 3) ++ s.errcode).extractLsb' 0 3 := BitVec.extractLsb'_append_eq_of_le (Nat.le_refl 2)
    _ = s.errcode := BitVec.extractLsb'_append_eq_right

/-- STATUS[7:5] (R23). -/
@[simp] theorem status_reservedField (s : State) : s.status.extractLsb' 5 3 = 0 :=
  calc s.status.extractLsb' 5 3
    _ = ((0 : BitVec 3) ++ s.errcode).extractLsb' 3 3 := BitVec.extractLsb'_append_eq_of_le (by decide : 2 ≤ 5)
    _ = 0 := BitVec.extractLsb'_append_eq_left

/-- Settles O27: each field of the concatenation is read back by its own lemma; the codes are those of `Fsm.code`. -/
theorem statusFields : Obligations.StatusFields := by
  intro s
  refine ⟨?_, status_errcodeField s, status_reservedField s⟩
  rw [status_stateField]
  cases s.fsm <;> rfl

end Sys2Proof.Machine
end

section
/-! PROOFS. Byte order (spec/20_memory.md R36, R40 and spec/43_finalization.md R92): a 32-bit slice of a bit string is
`le32` of its four bytes, whether the string is the payload, a word or the response. -/

namespace Sys2Proof.Machine

/-- `le32` is the concatenation of its bytes, the last one on top (R11). -/
theorem le32_eq_append (b0 b1 b2 b3 : Byte) : le32 b0 b1 b2 b3 = b3 ++ b2 ++ b1 ++ b0 := by
  have packed : (b3 ++ b2 ++ b1 ++ b0).setWidth 32 =
      (b3.setWidth 32 <<< 24) ||| (b2.setWidth 32 <<< 16) ||| (b1.setWidth 32 <<< 8) ||| b0.setWidth 32 :=
    BitVec.setWidth_append_append_append_eq_shiftLeft_setWidth_or
  rw [BitVec.setWidth_eq] at packed
  have reversed : ∀ p q r t : Word, p ||| q ||| r ||| t = t ||| r ||| q ||| p := by
    intros
    ac_rfl
  exact (reversed ..).trans packed.symm

/-- `le32` of bytes k to k + 3 of a bit string is its 32-bit slice from byte k on. -/
theorem le32_byteOf {w : Nat} (v : BitVec w) (k : Nat) :
    le32 (byteOf v k) (byteOf v (k + 1)) (byteOf v (k + 2)) (byteOf v (k + 3)) = v.extractLsb' (8 * k) 32 := by
  simp only [le32_eq_append, byteOf]
  rw [BitVec.extractLsb'_append_extractLsb'_eq_extractLsb' (by omega),
    BitVec.extractLsb'_append_extractLsb'_eq_extractLsb' (by omega),
    BitVec.extractLsb'_append_extractLsb'_eq_extractLsb' (by omega)]

/-- A word is `le32` of its own four bytes: `le32` undoes `bytes_le32` (R11). -/
theorem le32_byteOf_word (v : Word) : le32 (byteOf v 0) (byteOf v 1) (byteOf v 2) (byteOf v 3) = v :=
  (le32_byteOf v 0).trans BitVec.extractLsb'_eq_self

theorem payloadBytes_getElem? {n k : Nat} (hk : k < n) (din : Payload) :
    (payloadBytes n din)[k]? = some (byteOf din k) := by
  simp [payloadBytes, bytesLe, hk]

/-- Byte k of the response is digest byte k (R40). -/
theorem byteOf_packDigest (d : Digest) (k : Nat) (hk : k < 16) : byteOf (packDigest d) k = d[k] := by
  rw [packDigest, byteOf_packLe 128 d.toList k (by omega)]
  simp [hk]

/-- The 32-bit slice of the response from byte k on is `le32` of digest bytes k to k + 3. -/
theorem packDigest_word (d : Digest) (k : Nat) (hk : k + 3 < 16) :
    (packDigest d).extractLsb' (8 * k) 32 = le32 d[k] d[k + 1] d[k + 2] d[k + 3] := by
  rw [← le32_byteOf]
  simp only [byteOf_packDigest d k (by omega), byteOf_packDigest d (k + 1) (by omega),
    byteOf_packDigest d (k + 2) (by omega), byteOf_packDigest d (k + 3) hk]

/-- Settles O35: the payload's 32-bit slice j is its slice from byte 4j on. -/
theorem payloadWordsAreLittleEndian : Obligations.PayloadWordsAreLittleEndian := by
  intro din
  refine ⟨fun n k hk => payloadBytes_getElem? hk din, fun j _ => ?_⟩
  have slice : 32 * j = 8 * (4 * j) := by omega
  rw [slice]
  exact (le32_byteOf din (4 * j)).symm

/-- Settles O36: word j of the response is `le32` of digest bytes 4j to 4j + 3, which R92's byte map says are the bytes
of A, B, C and D. -/
theorem responsePacking : Obligations.ResponsePacking := by
  refine ⟨byteOf_packDigest, fun H => ⟨?_, ?_, ?_, ?_⟩⟩
  · exact (packDigest_word (serialize H) 0 (by decide)).trans (le32_byteOf_word H.a)
  · exact (packDigest_word (serialize H) 4 (by decide)).trans (le32_byteOf_word H.b)
  · exact (packDigest_word (serialize H) 8 (by decide)).trans (le32_byteOf_word H.c)
  · exact (packDigest_word (serialize H) 12 (by decide)).trans (le32_byteOf_word H.d)

end Sys2Proof.Machine
end

section
/-! PROOFS. RFC 1321's in-place form (spec/42_compression.md R83 to R86): the rotating steps keep the four variables in
the order of their roles, the in-place steps keep them in place and let the roles move. -/

namespace Sys2Proof.Machine

/-- The position of role k (0 to 3 for a, b, c, d) at step i: (k - i) mod 4 (R84), written as in `inPlaceStep`. -/
def rolePosition (i k : Nat) : Fin 4 := Fin.ofNat 4 (64 - i + k)

/-- The positions v hold, read in the order of the roles at step i, the variables w. -/
structure RolesHold (i : Nat) (w : Quad) (v : Vector Word 4) : Prop where
  a : v[rolePosition i 0] = w.a
  b : v[rolePosition i 1] = w.b
  c : v[rolePosition i 2] = w.c
  d : v[rolePosition i 3] = w.d

/-- In the next step each role stands where the role before it stood, and role a where role d stood. -/
theorem rolePosition_succ {i : Nat} (hi : i < 64) (k : Nat) : rolePosition (i + 1) (k + 1) = rolePosition i k := by
  unfold rolePosition
  congr 1
  omega

theorem rolePosition_succ_zero {i : Nat} (hi : i < 64) : rolePosition (i + 1) 0 = rolePosition i 3 := by
  apply Fin.ext
  simp only [rolePosition, Fin.val_ofNat]
  omega

/-- Roles b, c and d do not stand at the position of role a, which the step overwrites. -/
theorem rolePosition_zero_ne (i k : Nat) (h0 : 0 < k) (h4 : k < 4) :
    (rolePosition i 0).val ≠ (rolePosition i k).val := by
  simp only [rolePosition, Fin.val_ofNat]
  omega

/-- The in-place step puts the rotating step's nb at the position of role a. -/
theorem inPlaceStep_eq_set {M : BlockWords} {i : Fin 64} {w : Quad} {v : Vector Word 4} (h : RolesHold i w v) :
    inPlaceStep M v i = v.set (rolePosition i 0) (roundStep M w i).b := by
  obtain ⟨ha, hb, hc, hd⟩ := h
  simp only [roundStep, ← ha, ← hb, ← hc, ← hd]
  rfl

/-- One rotating step and one in-place step keep the correspondence, for the roles of the next step. -/
theorem rolesHold_step (M : BlockWords) (i : Fin 64) (w : Quad) (v : Vector Word 4) (h : RolesHold i w v) :
    RolesHold (i + 1) (roundStep M w i) (inPlaceStep M v i) := by
  have kept : ∀ k, 0 < k → k < 4 → (inPlaceStep M v i)[rolePosition i k] = v[rolePosition i k] := by
    intro k h0 h4
    rw [inPlaceStep_eq_set h]
    exact Vector.getElem_set_ne _ _ (rolePosition_zero_ne i k h0 h4)
  have written : (inPlaceStep M v i)[rolePosition i 0] = (roundStep M w i).b := by
    rw [inPlaceStep_eq_set h]
    exact Vector.getElem_set_self _
  constructor
  case a => simp only [rolePosition_succ_zero i.isLt, kept 3 (by decide) (by decide), h.d, roundStep]
  case b => simp only [rolePosition_succ i.isLt, written]
  case c => simp only [rolePosition_succ i.isLt, kept 1 (by decide) (by decide), h.b, roundStep]
  case d => simp only [rolePosition_succ i.isLt, kept 2 (by decide) (by decide), h.c, roundStep]

/-- Before step 0 the roles a, b, c, d stand at the positions 0, 1, 2, 3. -/
theorem rolesHold_zero (w : Quad) : RolesHold 0 w (positions w) := ⟨rfl, rfl, rfl, rfl⟩

/-- After step 63 the roles stand at the positions 0, 1, 2, 3 again. -/
theorem eq_positions_of_rolesHold {w : Quad} {v : Vector Word 4} (h : RolesHold 64 w v) : v = positions w := by
  obtain ⟨ha, hb, hc, hd⟩ := h
  apply Vector.ext
  intro k hk
  match k, hk with
  | 0, _ => exact ha
  | 1, _ => exact hb
  | 2, _ => exact hc
  | 3, _ => exact hd

/-- Two folds over 0, 1, …, n - 1 keep a relation that each pair of steps carries from i to i + 1. -/
theorem foldl_finRange_rel {α β : Type} {n : Nat} (R : Nat → α → β → Prop) (f : α → Fin n → α) (g : β → Fin n → β)
    {x : α} {y : β} (start : R 0 x y) (step : ∀ (i : Fin n) (x : α) (y : β), R i x y → R (i + 1) (f x i) (g y i)) :
    R n ((List.finRange n).foldl f x) ((List.finRange n).foldl g y) := by
  induction n with
  | zero => exact start
  | succ n ih =>
    simp only [List.finRange_succ_last, List.foldl_append, List.foldl_map]
    exact step (Fin.last n) _ _ (ih (fun x i => f x i.castSucc) (fun y i => g y i.castSucc) fun i => step i.castSucc)

/-- 64 in-place steps leave the four variables as the 64 rotating steps do (R84). -/
theorem foldl_inPlaceStep (M : BlockWords) (w : Quad) :
    (List.finRange 64).foldl (inPlaceStep M) (positions w) = positions (allSteps M w) :=
  eq_positions_of_rolesHold
    (foldl_finRange_rel RolesHold (roundStep M) (inPlaceStep M) (rolesHold_zero w) (rolesHold_step M))

theorem positions_addQuad (x y : Quad) :
    positions (addQuad x y) = Vector.zipWith (· + ·) (positions x) (positions y) := by
  simp [positions, addQuad]

theorem compress_eq (H : Quad) (blk : Block) : compress H blk = addQuad H (allSteps (blockWords blk) H) := by
  unfold compress
  rfl

/-- Compress adds to H what 64 in-place steps over the block's words make of it (R85, R86). -/
theorem positions_compress (H : Quad) (blk : Block) :
    positions (compress H blk) = Vector.zipWith (· + ·) (positions H)
      ((List.finRange 64).foldl (inPlaceStep (blockWords blk)) (positions H)) := by
  rw [compress_eq, positions_addQuad, foldl_inPlaceStep]

/-- Settles O44: a step by unfolding it; the pass by the correspondence of roles and positions; Compress by the pass. -/
theorem roleRotationIsTheInPlaceForm : Obligations.RoleRotationIsTheInPlaceForm :=
  ⟨fun _ _ _ _ _ _ => rfl, foldl_inPlaceStep, positions_compress⟩

end Sys2Proof.Machine
end

section
/-! PROOFS. The decoder by its fields (spec/30_encoding.md R48 to R55): which opcode a word names, what decodes to a
command, and which words those are. -/

namespace Sys2Proof

/-- OP of an opcode (R52). -/
def Opcode.code : Opcode → BitVec 4
  | .init => 1
  | .update => 2
  | .final => 3
  | .read => 4

/-- The values of NBYTES an opcode allows (R54). -/
def Opcode.allowsCount : Opcode → BitVec 7 → Bool
  | .init, n => n == 0
  | .update, n => decide (n.toNat ≤ 64)
  | .final, n => n == 0
  | .read, n => n == 0

/-- The command of an opcode; the count and the payload are operands of UPDATE alone (R58). -/
def Opcode.instr : Opcode → BitVec 7 → Payload → Instr
  | .init, _, _ => .init
  | .update, n, din => .update n din
  | .final, _, _ => .final
  | .read, _, _ => .read

@[simp] theorem Opcode.opcode_instr (op : Opcode) (n : BitVec 7) (din : Payload) : (op.instr n din).opcode = op := by
  cases op <;> rfl

theorem Opcode.allowsCount_eq_false {op : Opcode} {n : BitVec 7} (h : op ≠ .update) (hn : n ≠ 0) :
    op.allowsCount n = false := by
  cases op with
  | update => exact absurd rfl h
  | init | final | read => simpa [Opcode.allowsCount] using hn

/-! The opcode map -/

/-- OP 0 and 5 to 15 are the values R52 gives no opcode. -/
theorem illegalOp_iff : ∀ {v : BitVec 4}, v = 0 ∨ 5 ≤ v.toNat ↔ v.toNat ∉ [1, 2, 3, 4] := by decide

theorem legalOp_iff : ∀ {v : BitVec 4}, 1 ≤ v.toNat ∧ v.toNat ≤ 4 ↔ v.toNat ∈ [1, 2, 3, 4] := by decide

theorem opcodeOf_eq_none_iff : ∀ {v : BitVec 4}, opcodeOf v = none ↔ v.toNat ∉ [1, 2, 3, 4] := by decide

theorem opcodeOf_eq_some_iff {v : BitVec 4} {op : Opcode} : opcodeOf v = some op ↔ v = op.code := by
  revert v
  cases op <;> decide

theorem Opcode.code_injective {op op' : Opcode} (h : op.code = op'.code) : op = op' :=
  Option.some.inj ((opcodeOf_eq_some_iff.2 rfl).symm.trans (opcodeOf_eq_some_iff.2 h))

/-- OP 1 to 4 name an opcode (R52). -/
theorem exists_opField_eq_code {w : CmdWord} (h : (opField w).toNat ∈ [1, 2, 3, 4]) :
    ∃ op : Opcode, opField w = op.code := by
  have named : opcodeOf (opField w) ≠ none := fun none => opcodeOf_eq_none_iff.1 none h
  obtain ⟨op, hop⟩ := Option.ne_none_iff_exists'.1 named
  exact ⟨op, opcodeOf_eq_some_iff.1 hop⟩

/-- OP 1, 3 and 4 name the opcodes other than UPDATE (R52). -/
theorem exists_opField_eq_other {w : CmdWord} (h : (opField w).toNat ∈ [1, 3, 4]) :
    ∃ op : Opcode, opField w = op.code ∧ op ≠ .update := by
  have subset : [1, 3, 4] ⊆ [1, 2, 3, 4] := by decide
  obtain ⟨op, hop⟩ := exists_opField_eq_code (subset h)
  refine ⟨op, hop, ?_⟩
  rintro rfl
  simp [hop, Opcode.code] at h

/-! The outcomes of the decode order (R55) -/

theorem decode_illegalOpcode {c : Command} (h : (opField c.cmd).toNat ∉ [1, 2, 3, 4]) :
    decode c = .error .illegalOpcode := by
  simp only [decode, opcodeOf_eq_none_iff.2 h]

theorem decode_of_opField {c : Command} {op : Opcode} (h : opField c.cmd = op.code) : decode c = decodeFields op c := by
  simp only [decode, opcodeOf_eq_some_iff.2 h]

/-- The field checks in one line for every opcode: RSVD is 0 and the count is allowed, or the field is reserved. -/
theorem decodeFields_eq (op : Opcode) (c : Command) :
    decodeFields op c =
      if rsvdField c.cmd = 0 ∧ op.allowsCount (nbytesField c.cmd) = true then
        .ok (op.instr (nbytesField c.cmd) c.din)
      else .error .reservedField := by
  by_cases hr : rsvdField c.cmd = 0
  · cases op <;> simp [decodeFields, Opcode.allowsCount, Opcode.instr, hr]
  · exact (if_pos hr).trans (if_neg fun legal => hr legal.1).symm

theorem decode_command {c : Command} {op : Opcode} (hop : opField c.cmd = op.code) (hr : rsvdField c.cmd = 0)
    (hn : op.allowsCount (nbytesField c.cmd) = true) : decode c = .ok (op.instr (nbytesField c.cmd) c.din) := by
  rw [decode_of_opField hop, decodeFields_eq, if_pos ⟨hr, hn⟩]

theorem decode_reservedField {c : Command} {op : Opcode} (hop : opField c.cmd = op.code)
    (h : rsvdField c.cmd ≠ 0 ∨ op.allowsCount (nbytesField c.cmd) = false) : decode c = .error .reservedField := by
  rw [decode_of_opField hop, decodeFields_eq, if_neg]
  rintro ⟨hr, hn⟩
  obtain h | h := h
  · exact h hr
  · simp [hn] at h

/-- Every word has one of the three outcomes of R55. -/
theorem decode_cases (c : Command) :
    ((opField c.cmd).toNat ∉ [1, 2, 3, 4] ∧ decode c = .error .illegalOpcode) ∨
    (∃ op : Opcode, opField c.cmd = op.code ∧ (rsvdField c.cmd ≠ 0 ∨ op.allowsCount (nbytesField c.cmd) = false) ∧
      decode c = .error .reservedField) ∨
    (∃ op : Opcode, opField c.cmd = op.code ∧ rsvdField c.cmd = 0 ∧ op.allowsCount (nbytesField c.cmd) = true ∧
      decode c = .ok (op.instr (nbytesField c.cmd) c.din)) := by
  by_cases named : (opField c.cmd).toNat ∈ [1, 2, 3, 4]
  · obtain ⟨op, hop⟩ := exists_opField_eq_code named
    by_cases legal : rsvdField c.cmd = 0 ∧ op.allowsCount (nbytesField c.cmd) = true
    · obtain ⟨hr, hn⟩ := legal
      exact .inr (.inr ⟨op, hop, hr, hn, decode_command hop hr hn⟩)
    · have reserved : rsvdField c.cmd ≠ 0 ∨ op.allowsCount (nbytesField c.cmd) = false := by
        simpa [imp_iff_not_or] using legal
      exact .inr (.inl ⟨op, hop, reserved, decode_reservedField hop reserved⟩)
  · exact .inl ⟨named, decode_illegalOpcode named⟩

/-- What decodes to a command, by the fields of the word. -/
theorem decode_eq_ok_iff {c : Command} {i : Instr} :
    decode c = .ok i ↔ opField c.cmd = i.opcode.code ∧ rsvdField c.cmd = 0 ∧
      i.opcode.allowsCount (nbytesField c.cmd) = true ∧ i.opcode.instr (nbytesField c.cmd) c.din = i := by
  constructor
  · intro h
    obtain ⟨-, e⟩ | ⟨op, -, -, e⟩ | ⟨op, hop, hr, hn, e⟩ := decode_cases c
    · cases e.symm.trans h
    · cases e.symm.trans h
    · cases e.symm.trans h
      rw [Opcode.opcode_instr]
      exact ⟨hop, hr, hn, rfl⟩
  · rintro ⟨hop, hr, hn, hi⟩
    rw [decode_command hop hr hn, hi]

/-! Words and their fields (R48) -/

@[simp] theorem opField_packFields (r : BitVec 5) (n : BitVec 7) (o : BitVec 4) : opField (packFields r n o) = o :=
  BitVec.extractLsb'_append_eq_right

@[simp] theorem nbytesField_packFields (r : BitVec 5) (n : BitVec 7) (o : BitVec 4) :
    nbytesField (packFields r n o) = n :=
  calc (packFields r n o).extractLsb' 4 7
    _ = (r ++ n).extractLsb' 0 7 := BitVec.extractLsb'_append_eq_of_le (Nat.le_refl 4)
    _ = n := BitVec.extractLsb'_append_eq_right

@[simp] theorem rsvdField_packFields (r : BitVec 5) (n : BitVec 7) (o : BitVec 4) : rsvdField (packFields r n o) = r :=
  calc (packFields r n o).extractLsb' 11 5
    _ = (r ++ n).extractLsb' 7 5 := BitVec.extractLsb'_append_eq_of_le (by decide : 4 ≤ 11)
    _ = r := BitVec.extractLsb'_append_eq_left

@[simp] theorem packFields_fields (w : CmdWord) : packFields (rsvdField w) (nbytesField w) (opField w) = w :=
  calc rsvdField w ++ nbytesField w ++ opField w
    _ = w.extractLsb' 4 (5 + 7) ++ opField w :=
      congrArg (· ++ opField w) (BitVec.extractLsb'_append_extractLsb'_eq_extractLsb' (by decide : 11 = 4 + 7))
    _ = w.extractLsb' 0 (5 + 7 + 4) := BitVec.extractLsb'_append_extractLsb'_eq_extractLsb' (by decide : 4 = 0 + 4)
    _ = w := BitVec.extractLsb'_eq_self

/-- A word is the one with its three fields. -/
theorem eq_packFields_iff {w : CmdWord} {r : BitVec 5} {n : BitVec 7} {o : BitVec 4} :
    w = packFields r n o ↔ opField w = o ∧ rsvdField w = r ∧ nbytesField w = n := by
  constructor
  · rintro rfl
    simp
  · rintro ⟨rfl, rfl, rfl⟩
    exact (packFields_fields w).symm

/-- UPDATE's word in the opcode map: `0x0002 + (n << 4)` (R52). -/
theorem packFields_update : ∀ n : BitVec 7, packFields 0 n 2 = BitVec.ofNat 16 (0x0002 + 16 * n.toNat) := by decide

/-- The mask 0xF80F keeps RSVD and OP and clears NBYTES (R52). -/
theorem and_updateMask (w : CmdWord) : w &&& 0xF80F = packFields (rsvdField w) 0 (opField w) := by
  have hop : opField 0xF80F = BitVec.allOnes 4 := by decide
  have hr : rsvdField 0xF80F = BitVec.allOnes 5 := by decide
  have hn : nbytesField 0xF80F = 0 := by decide
  refine eq_packFields_iff.2 ⟨?_, ?_, ?_⟩
  · exact BitVec.extractLsb'_and.trans ((congrArg (opField w &&& ·) hop).trans BitVec.and_allOnes)
  · exact BitVec.extractLsb'_and.trans ((congrArg (rsvdField w &&& ·) hr).trans BitVec.and_allOnes)
  · exact BitVec.extractLsb'_and.trans ((congrArg (nbytesField w &&& ·) hn).trans BitVec.and_zero)

/-- 0x0002 under the mask 0xF80F is what R52 asks of an UPDATE's word besides its count. -/
theorem and_updateMask_eq_iff {w : CmdWord} : w &&& 0xF80F = 0x0002 ↔ opField w = 2 ∧ rsvdField w = 0 := by
  have pattern : (0x0002 : CmdWord) = packFields 0 0 2 := by decide
  rw [and_updateMask, pattern, eq_packFields_iff]
  simp

/-! The legal words (R52) -/

/-- What decodes to a command, by the encoder: the command is well formed, the word is its own, and an UPDATE carries
the payload sent with it. -/
theorem decode_eq_ok_iff_encode {c : Command} {i : Instr} :
    decode c = .ok i ↔
      i.wellFormed = true ∧ c.cmd = (encode i).cmd ∧ (i.opcode = .update → c.din = (encode i).din) := by
  rw [decode_eq_ok_iff]
  cases i with
  | update n din =>
    simp only [Instr.opcode, Opcode.code, Opcode.allowsCount, Opcode.instr, Instr.wellFormed, encode, eq_packFields_iff,
      Instr.update.injEq, forall_const]
    constructor
    · rintro ⟨hop, hr, hn, rfl, rfl⟩
      exact ⟨hn, ⟨hop, hr, rfl⟩, rfl⟩
    · rintro ⟨hn, ⟨hop, hr, rfl⟩, rfl⟩
      exact ⟨hop, hr, hn, rfl, rfl⟩
  | init | final | read =>
    simp [Instr.opcode, Opcode.code, Opcode.allowsCount, Opcode.instr, Instr.wellFormed, encode, eq_packFields_iff]

/-- A command other than UPDATE is one word, whatever the payload. -/
theorem decode_eq_ok_iff_word {c : Command} {i : Instr} (h : i.opcode ≠ .update) :
    decode c = .ok i ↔ c.cmd = (encode i).cmd := by
  have wellFormed : i.wellFormed = true := by
    cases i with
    | update n din => exact absurd rfl h
    | init | final | read => rfl
  simp [decode_eq_ok_iff_encode, wellFormed, h]

theorem decode_eq_init_iff {c : Command} : decode c = .ok .init ↔ c.cmd = 0x0001 := decode_eq_ok_iff_word nofun

theorem decode_eq_final_iff {c : Command} : decode c = .ok .final ↔ c.cmd = 0x0003 := decode_eq_ok_iff_word nofun

theorem decode_eq_read_iff {c : Command} : decode c = .ok .read ↔ c.cmd = 0x0004 := decode_eq_ok_iff_word nofun

theorem decode_eq_update_iff {c : Command} {n : BitVec 7} {din : Payload} :
    decode c = .ok (.update n din) ↔
      n.toNat ≤ 64 ∧ c.cmd = BitVec.ofNat 16 (0x0002 + 16 * n.toNat) ∧ din = c.din := by
  rw [decode_eq_ok_iff_encode, ← packFields_update]
  simp [Instr.wellFormed, Instr.opcode, encode, eq_comm (a := din)]

theorem decode_eq_update_iff_mask {c : Command} {n : BitVec 7} {din : Payload} :
    decode c = .ok (.update n din) ↔
      c.cmd &&& 0xF80F = 0x0002 ∧ n = nbytesField c.cmd ∧ n.toNat ≤ 64 ∧ din = c.din := by
  rw [decode_eq_update_iff, ← packFields_update, eq_packFields_iff, and_updateMask_eq_iff]
  constructor
  · rintro ⟨hn, ⟨hop, hr, rfl⟩, hdin⟩
    exact ⟨⟨hop, hr⟩, rfl, hn, hdin⟩
  · rintro ⟨⟨hop, hr⟩, rfl, hn, hdin⟩
    exact ⟨hn, ⟨hop, hr, rfl⟩, hdin⟩

/-- The legal words as numbers: INIT, FINAL, READ, and UPDATE of 0 to 64 bytes (R52). -/
def legalWords : List Nat := 0x0001 :: 0x0003 :: 0x0004 :: (List.range 65).map (0x0002 + 16 * ·)

theorem mem_legalWords {w : Nat} :
    w ∈ legalWords ↔ w = 0x0001 ∨ w = 0x0003 ∨ w = 0x0004 ∨ ∃ n < 65, 0x0002 + 16 * n = w := by
  simp [legalWords]

theorem legalWords_nodup : legalWords.Nodup := by decide

/-- A word decodes to a command exactly if it is one of the legal words. -/
theorem isOk_decode_iff {c : Command} : (decode c).isOk = true ↔ c.cmd.toNat ∈ legalWords := by
  rw [mem_legalWords]
  constructor
  · intro h
    cases e : decode c with
    | error k => simp [e, Except.isOk, Except.toBool] at h
    | ok i =>
      cases i with
      | init => simp [decode_eq_init_iff.1 e]
      | final => simp [decode_eq_final_iff.1 e]
      | read => simp [decode_eq_read_iff.1 e]
      | update n din =>
        obtain ⟨hn, hcmd, -⟩ := decode_eq_update_iff.1 e
        refine .inr (.inr (.inr ⟨n.toNat, by omega, ?_⟩))
        rw [hcmd, BitVec.toNat_ofNat, Nat.mod_eq_of_lt (by omega)]
  · rintro (h | h | h | ⟨n, hn, h⟩)
    · rw [decode_eq_init_iff.2 (BitVec.eq_of_toNat_eq h)]
      rfl
    · rw [decode_eq_final_iff.2 (BitVec.eq_of_toNat_eq h)]
      rfl
    · rw [decode_eq_read_iff.2 (BitVec.eq_of_toNat_eq h)]
      rfl
    · have count : (BitVec.ofNat 7 n).toNat = n := by
        rw [BitVec.toNat_ofNat, Nat.mod_eq_of_lt (by omega)]
      have word : c.cmd = BitVec.ofNat 16 (0x0002 + 16 * (BitVec.ofNat 7 n).toNat) := by
        rw [count, h, BitVec.ofNat_toNat, BitVec.setWidth_eq]
      rw [decode_eq_update_iff.2 ⟨by omega, word, rfl⟩]
      rfl

/-- The words that decode to a command are the legal words, each once. -/
theorem filter_isOk_perm (din : Payload) :
    ((List.range 65536).filter fun w => (decode ⟨BitVec.ofNat 16 w, din⟩).isOk).Perm legalWords := by
  rw [List.perm_ext_iff_of_nodup (List.nodup_range.filter _) legalWords_nodup]
  intro w
  rw [List.mem_filter, isOk_decode_iff, List.mem_range, BitVec.toNat_ofNat]
  constructor
  · rintro ⟨hw, h⟩
    rwa [Nat.mod_eq_of_lt hw] at h
  · intro h
    have hw : w < 65536 := by
      obtain h | h | h | ⟨n, hn, h⟩ := mem_legalWords.1 h <;> omega
    exact ⟨hw, by rwa [Nat.mod_eq_of_lt hw]⟩

/-- Settles O2: each clause is an outcome of the decode order; the legal words are counted as R52 lists them. -/
theorem decodeFollowsTheOrder : Obligations.DecodeFollowsTheOrder := by
  refine ⟨fun c => ?_, fun din => (filter_isOk_perm din).length_eq⟩
  have opIs (op : Opcode) (h : (opField c.cmd).toNat = op.code.toNat) : opField c.cmd = op.code :=
    BitVec.eq_of_toNat_eq h
  have rsvdIs (h : (rsvdField c.cmd).toNat = 0) : rsvdField c.cmd = 0 := BitVec.eq_of_toNat_eq h
  have countIs (h : (nbytesField c.cmd).toNat = 0) : nbytesField c.cmd = 0 := BitVec.eq_of_toNat_eq h
  refine ⟨decode_illegalOpcode, ?reservedBits, ?updateCount, ?otherCount, ?init, ?update, ?final, ?read⟩
  case reservedBits =>
    intro hop hr
    obtain ⟨op, hop⟩ := exists_opField_eq_code hop
    exact decode_reservedField hop (.inl fun h => hr (congrArg BitVec.toNat h))
  case updateCount =>
    intro hop _ hn
    exact decode_reservedField (opIs .update hop) (.inr (decide_eq_false (Nat.not_le.2 hn)))
  case otherCount =>
    intro hop _ hn
    obtain ⟨op, hop, other⟩ := exists_opField_eq_other hop
    exact decode_reservedField hop (.inr (Opcode.allowsCount_eq_false other fun h => hn (congrArg BitVec.toNat h)))
  case init =>
    intro hop hr hn
    exact decode_command (opIs .init hop) (rsvdIs hr) (beq_iff_eq.2 (countIs hn))
  case update =>
    intro hop hr hn
    have count : BitVec.ofNat 7 (nbytesField c.cmd).toNat = nbytesField c.cmd := by
      rw [BitVec.ofNat_toNat, BitVec.setWidth_eq]
    exact (decode_command (opIs .update hop) (rsvdIs hr) (decide_eq_true hn)).trans
      (congrArg (fun n => Except.ok (Instr.update n c.din)) count.symm)
  case final =>
    intro hop hr hn
    exact decode_command (opIs .final hop) (rsvdIs hr) (beq_iff_eq.2 (countIs hn))
  case read =>
    intro hop hr hn
    exact decode_command (opIs .read hop) (rsvdIs hr) (beq_iff_eq.2 (countIs hn))

/-- Settles O3: what decodes to each command, read as a word; an OP outside 1 to 4 is illegal. -/
theorem legalWordsAreTheTable : Obligations.LegalWordsAreTheTable := by
  intro c
  refine ⟨decode_eq_init_iff, fun n din => decode_eq_update_iff, fun n din => decode_eq_update_iff_mask,
    decode_eq_final_iff, decode_eq_read_iff, ?_⟩
  intro hop i h
  cases (decode_illegalOpcode (illegalOp_iff.1 hop)).symm.trans h

end Sys2Proof
end

section
/-! PROOFS. What a command word does when it executes (spec/44_commands.md R99, spec/30_encoding.md R53, R54, R58, R59):
the decoder's rejections, the payload bytes read, and the response. -/

namespace Sys2Proof.Machine

theorem execute_of_decode_ok {c : Command} {i : Instr} (h : decode c = .ok i) (s : State) :
    execute c s = exec i s := by
  simp only [execute, h]

theorem execute_of_decode_error {c : Command} {k : Cause} (h : decode c = .error k) (s : State) :
    execute c s = .next (reject k s) := by
  simp only [execute, h]

/-- A word the decoder rejects: outside ERROR, STATE, ERRCODE and the response are all it writes (R114). -/
theorem execute_of_decode_error_outside_error {c : Command} {k : Cause} {s : State} (h : decode c = .error k)
    (hs : s.fsm ≠ .error) :
    execute c s = .next { s with fsm := .error, errcode := causeCode k, channel := .responding ⟨false, 0⟩ } := by
  rw [execute_of_decode_error h, reject_outside_error k s hs]
  rfl

/-! Errors of the encoding -/

/-- Settles O17: the decoder finds the illegal opcode before it looks at another field. -/
theorem illegalOpcodeIsRejected : Obligations.IllegalOpcodeIsRejected :=
  fun _ _ hop hs => execute_of_decode_error_outside_error (decode_illegalOpcode (illegalOp_iff.1 hop)) hs

/-- Settles O18: RSVD is nonzero, or the count is one that the word's opcode does not allow. -/
theorem reservedFieldIsRejected : Obligations.ReservedFieldIsRejected := by
  intro c s hop hs reserved
  obtain ⟨op, hop⟩ := exists_opField_eq_code (legalOp_iff.1 hop)
  have refused : rsvdField c.cmd ≠ 0 ∨ op.allowsCount (nbytesField c.cmd) = false := by
    obtain hr | ⟨isUpdate, hn⟩ | ⟨notUpdate, hn⟩ := reserved
    · exact .inl hr
    · cases Opcode.code_injective (hop.symm.trans isUpdate : op.code = Opcode.update.code)
      exact .inr (decide_eq_false (Nat.not_le.2 hn))
    · exact .inr (Opcode.allowsCount_eq_false (fun h => notUpdate (hop.trans (congrArg Opcode.code h))) hn)
  exact execute_of_decode_error_outside_error (decode_reservedField hop refused) hs

/-! Payload bytes (R58) -/

theorem payloadBytes_congr {n : Nat} {din din' : Payload} (h : ∀ k < n, byteOf din k = byteOf din' k) :
    payloadBytes n din = payloadBytes n din' :=
  List.map_congr_left fun k hk => h k (List.mem_range.1 hk)

/-- Only where the legality table allows the command does its effect matter. -/
theorem whenLegal_congr {op : Opcode} {s : State} {body body' : State → State}
    (h : legal op s.fsm = true → body s = body' s) : whenLegal op s body = whenLegal op s body' := by
  obtain ⟨allowed, e⟩ | ⟨refused, e⟩ := whenLegal_cases op s body
  · rw [e, h allowed, whenLegal, if_pos allowed]
  · rw [e, whenLegal, if_neg (by simp [refused])]

/-- An UPDATE reads its first n payload bytes where it executes, and no byte elsewhere. -/
theorem exec_update_congr {n : BitVec 7} {din din' : Payload} {s : State}
    (h : s.fsm = .absorb → n.toNat ≤ 64 → ∀ k < n.toNat, byteOf din k = byteOf din' k) :
    exec (.update n din) s = exec (.update n din') s := by
  by_cases hn : 64 < n.toNat
  · exact (if_pos hn).trans (if_pos hn).symm
  · have sameEffect :
        whenLegal .update s (absorbPayload n.toNat din) = whenLegal .update s (absorbPayload n.toNat din') := by
      refine whenLegal_congr fun allowed => ?_
      have absorbing : s.fsm = .absorb := by simpa using legal_cases allowed
      rw [absorbPayload, payloadBytes_congr (h absorbing (by omega)), ← absorbPayload]
    simp only [exec, execUpdate, sameEffect]

/-- Settles O7: the two words decode alike up to the payload, which UPDATE alone carries. -/
theorem ignoredPayloadBytesHaveNoEffect : Obligations.IgnoredPayloadBytesHaveNoEffect := by
  intro c c' s same agree
  obtain ⟨hop, e⟩ | ⟨op, hop, reserved, e⟩ | ⟨op, hop, hr, hn, e⟩ := decode_cases c
  · rw [execute_of_decode_error e, execute_of_decode_error (decode_illegalOpcode (same ▸ hop))]
  · rw [execute_of_decode_error e, execute_of_decode_error (decode_reservedField (same ▸ hop) (same ▸ reserved))]
  · rw [execute_of_decode_ok e, execute_of_decode_ok (decode_command (same ▸ hop) (same ▸ hr) (same ▸ hn)), ← same]
    cases op with
    | update => exact exec_update_congr fun absorbing hn => agree absorbing hop hr hn
    | init | final | read => rfl

/-! The response (R59) -/

theorem exec_read_of_done {s : State} (h : s.fsm = .done) : exec .read s = .next (returnDigest s) := by
  simp only [exec, execRead, whenLegal, h, legal, if_true]

/-- Any command but a READ in DONE responds with no data, and with RSP_OK exactly if it does not end in ERROR. -/
theorem exec_response_of_not_read {i : Instr} {s t : State} (h : exec i s = .next t)
    (notRead : ¬ (i = .read ∧ s.fsm = .done)) :
    ∃ ok, t.channel = .responding ⟨ok, 0⟩ ∧ (ok = true ↔ t.fsm ≠ .error) := by
  obtain ⟨k, rfl⟩ | ⟨allowed, ⟨rfl, rfl⟩ | ⟨n, din, rfl, -, rfl⟩ | ⟨rfl, rfl⟩ | ⟨rfl, rfl⟩⟩ := exec_cases h
  · exact ⟨false, by simp⟩
  · exact ⟨true, by simp⟩
  · have absorbing : s.fsm = .absorb := by simpa [Instr.opcode] using legal_cases allowed
    exact ⟨true, rfl, by simp [absorbPayload, absorbBytes_frame, absorbing]⟩
  · exact ⟨true, rfl, by simp [finishComputation]⟩
  · have done : s.fsm = .done := by simpa [Instr.opcode] using legal_cases allowed
    exact absurd ⟨rfl, done⟩ notRead

/-- Settles O14: a READ in DONE returns the digest; every other command responds with no data. -/
theorem everyCommandGetsOneResponse : Obligations.EveryCommandGetsOneResponse := by
  intro c s
  obtain ⟨i, e, run⟩ | ⟨k, e, run⟩ := execute_cases c s
  · by_cases reading : i = .read ∧ s.fsm = .done
    · obtain ⟨rfl, done⟩ := reading
      exact ⟨returnDigest s, _, run.trans (exec_read_of_done done), rfl, by simp [done], fun _ _ => rfl,
        fun not => absurd ⟨e, done⟩ not⟩
    · obtain ⟨t, ht⟩ := exec_next i s
      obtain ⟨ok, response, okIff⟩ := exec_response_of_not_read ht reading
      exact ⟨t, _, run.trans ht, response, okIff,
        fun read done => absurd ⟨Except.ok.inj (e.symm.trans read), done⟩ reading, fun _ => rfl⟩
  · exact ⟨reject k s, _, run, reject_channel k s, by simp, fun read => (nomatch e.symm.trans read), fun _ => rfl⟩

end Sys2Proof.Machine
end

section
/-! PROOFS. The padder (spec/41_padding.md R63 to R69): the bytes of the blocks, in order, and their number. -/

namespace Sys2Proof.Machine

/-- The first n blocks of 64 bytes carry the first 64n bytes unchanged (R64). -/
theorem chunks_bytes (msg : List Byte) (n : Nat) (h : 64 * n ≤ msg.length) :
    (List.range n).flatMap (fun k => (toBlock ((msg.drop (64 * k)).take 64)).toList) = msg.take (64 * n) := by
  induction n with
  | zero => simp
  | succ n ih =>
    have whole : ((msg.drop (64 * n)).take 64).length = 64 := by
      rw [List.length_take, List.length_drop]
      omega
    rw [List.range_succ, List.flatMap_append, ih (by omega), List.flatMap_singleton, toBlock_toList _ whole,
      ← List.take_add, ← Nat.mul_succ]

/-- The bytes of the full blocks, followed by the tail, are the message (R64, R65). -/
theorem fullBlocks_bytes_append_tail (msg : List Byte) :
    (fullBlocks msg).flatMap (fun blk => blk.toList) ++ tailBytes msg = msg := by
  rw [fullBlocks, List.flatMap_map, chunks_bytes msg (fullCount msg) (Nat.mul_div_le _ 64), tailBytes,
    List.take_append_drop]

/-- PadTail cuts the padded tail into blocks and loses no byte of it (R66, R67). -/
theorem padTail_bytes (tail : List Byte) (bitlen : BitLen) (h : tail.length < 64) :
    (padTail tail bitlen).flatMap (fun blk => blk.toList) = paddedTail tail bitlen := by
  have len := paddedTail_length tail bitlen h
  unfold padTail
  by_cases one : tail.length < 56
  · rw [if_pos one] at len ⊢
    rw [List.flatMap_singleton, toBlock_toList _ len]
  · rw [if_neg one] at len ⊢
    have first : ((paddedTail tail bitlen).take 64).length = 64 := by simp [len]
    have second : ((paddedTail tail bitlen).drop 64).length = 64 := by simp [len]
    rw [List.flatMap_cons, List.flatMap_singleton, toBlock_toList _ first, toBlock_toList _ second,
      List.take_append_drop]

/-- The zero bytes of the padded tail: fewer than 64, up to offset 56 of a block (R66, R67). -/
theorem paddedTail_zeroCount (tail : List Byte) (bitlen : BitLen) (h : tail.length < 64) :
    ∃ z < 64, (tail.length + 1 + z) % 64 = 56 ∧
      paddedTail tail bitlen = tail ++ [0x80] ++ zeros z ++ bytesLe64 bitlen := by
  refine ⟨if tail.length < 56 then 55 - tail.length else 119 - tail.length, ?_, ?_, rfl⟩
  · split <;> omega
  · split <;> omega

theorem tailBytes_length_lt (msg : List Byte) : (tailBytes msg).length < 64 := by
  rw [tailBytes_length]
  exact Nat.mod_lt _ (by decide)

/-- The padded stream is the bytes of the full blocks, then the padded tail (R70). -/
theorem pad_bytes (msg : List Byte) :
    (pad msg).flatMap (fun blk => blk.toList) =
      (fullBlocks msg).flatMap (fun blk => blk.toList) ++ paddedTail (tailBytes msg) (bitLength msg) := by
  rw [pad, List.flatMap_append, padTail_bytes _ _ (tailBytes_length_lt msg)]

/-- Settles O38: the zero bytes are those of the padded tail, and the full blocks with the tail are the message. -/
theorem paddingContract : Obligations.PaddingContract := by
  intro msg
  obtain ⟨z, few, upTo56, padded⟩ := paddedTail_zeroCount (tailBytes msg) (bitLength msg) (tailBytes_length_lt msg)
  refine ⟨z, few, ?_, ?_⟩
  · rw [tailBytes_length] at upTo56
    omega
  · calc (pad msg).flatMap (fun blk => blk.toList)
      _ = (fullBlocks msg).flatMap (fun blk => blk.toList) ++
            (tailBytes msg ++ [0x80] ++ zeros z ++ bytesLe64 (bitLength msg)) := by rw [pad_bytes, padded]
      _ = ((fullBlocks msg).flatMap (fun blk => blk.toList) ++ tailBytes msg) ++
            [0x80] ++ zeros z ++ bytesLe64 (bitLength msg) := by simp only [List.append_assoc]
      _ = msg ++ [0x80] ++ zeros z ++ bytesLe64 (bitLength msg) := by rw [fullBlocks_bytes_append_tail]

/-- The full blocks, and one block more or two, as the tail leaves room for the trailer or not (R69). -/
theorem pad_length (msg : List Byte) :
    (pad msg).length = msg.length / 64 + if msg.length % 64 < 56 then 1 else 2 := by
  rw [pad, List.length_append, fullBlocks_length, padTail_length, tailBytes_length]

/-- Settles O39: the number of blocks, and arithmetic on either side of the boundary R = 55/56. -/
theorem paddedLength : Obligations.PaddedLength := by
  intro msg
  rw [pad_length]
  by_cases one : msg.length % 64 < 56
  · rw [if_pos one, if_pos (Nat.le_of_lt_succ one)]
    omega
  · rw [if_neg one, if_neg (by omega)]
    omega

end Sys2Proof.Machine
end

section
/-! PROOFS. The compression core's round functions and step parameters (spec/42_compression.md R73 to R80): each round
function bit by bit, and each parameter of a step read from its group. -/

namespace Sys2Proof.Machine

/-! The round functions (R73 to R76) -/

theorem getLsbD_roundF (x y z : Word) {k : Nat} (hk : k < 32) :
    (roundF x y z).getLsbD k = if x.getLsbD k then y.getLsbD k else z.getLsbD k := by
  simp only [roundF, BitVec.getLsbD_or, BitVec.getLsbD_and, BitVec.getLsbD_not, hk, decide_true, Bool.true_and]
  cases x.getLsbD k <;> simp

theorem getLsbD_roundG (x y z : Word) {k : Nat} (hk : k < 32) :
    (roundG x y z).getLsbD k = if z.getLsbD k then x.getLsbD k else y.getLsbD k := by
  simp only [roundG, BitVec.getLsbD_or, BitVec.getLsbD_and, BitVec.getLsbD_not, hk, decide_true, Bool.true_and]
  cases z.getLsbD k <;> simp

theorem getLsbD_roundH (x y z : Word) (k : Nat) :
    (roundH x y z).getLsbD k = ((x.getLsbD k ^^ y.getLsbD k) ^^ z.getLsbD k) := by
  rw [roundH, BitVec.getLsbD_xor, BitVec.getLsbD_xor]

theorem getLsbD_roundI (x y z : Word) {k : Nat} (hk : k < 32) :
    (roundI x y z).getLsbD k = if x.getLsbD k || !z.getLsbD k then !y.getLsbD k else y.getLsbD k := by
  simp only [roundI, BitVec.getLsbD_xor, BitVec.getLsbD_or, BitVec.getLsbD_not, hk, decide_true, Bool.true_and]
  cases x.getLsbD k || !z.getLsbD k <;> simp

/-- Settles O41: `roundFn` names the four functions, and each has its bit lemma. -/
theorem roundFunctionsBitwise : Obligations.RoundFunctionsBitwise :=
  fun x y z k hk =>
    ⟨getLsbD_roundF x y z hk, getLsbD_roundG x y z hk, getLsbD_roundH x y z k, getLsbD_roundI x y z hk⟩

/-! The group of a step (R77) -/

/-- The quarter of the 64 steps that a group holds, counted from 0 (R77). -/
def RoundGroup.quarter : RoundGroup → Nat
  | .one => 0
  | .two => 1
  | .three => 2
  | .four => 3

theorem RoundGroup.quarter_injective : Function.Injective RoundGroup.quarter := by
  intro g g'
  cases g <;> cases g' <;> simp [RoundGroup.quarter]

theorem quarter_groupOf (i : Fin 64) : (groupOf i).quarter = i.val / 16 := by
  unfold groupOf
  split_ifs <;> simp only [RoundGroup.quarter] <;> omega

theorem groupOf_eq_iff {i : Fin 64} {g : RoundGroup} : groupOf i = g ↔ i.val / 16 = g.quarter := by
  rw [← quarter_groupOf, RoundGroup.quarter_injective.eq_iff]

theorem groupOf_one {i : Fin 64} (h : i.val < 16) : groupOf i = .one :=
  groupOf_eq_iff.mpr (show i.val / 16 = 0 by omega)

theorem groupOf_two {i : Fin 64} (h : 16 ≤ i.val) (h' : i.val < 32) : groupOf i = .two :=
  groupOf_eq_iff.mpr (show i.val / 16 = 1 by omega)

theorem groupOf_three {i : Fin 64} (h : 32 ≤ i.val) (h' : i.val < 48) : groupOf i = .three :=
  groupOf_eq_iff.mpr (show i.val / 16 = 2 by omega)

theorem groupOf_four {i : Fin 64} (h : 48 ≤ i.val) : groupOf i = .four :=
  groupOf_eq_iff.mpr (show i.val / 16 = 3 by omega)

/-! The message index (R78, R79): in each group it is affine in the step number modulo 16, with a stride
coprime to 16 -/

/-- The index at step number 0 of a group's closed form (R78). -/
def RoundGroup.offset : RoundGroup → Nat
  | .one => 0
  | .two => 1
  | .three => 5
  | .four => 0

/-- How far the index moves, modulo 16, from one step of a group to the next (R78). -/
def RoundGroup.stride : RoundGroup → Nat
  | .one => 1
  | .two => 5
  | .three => 3
  | .four => 7

theorem RoundGroup.coprime_stride (g : RoundGroup) : Nat.gcd 16 g.stride = 1 := by
  cases g <;> rfl

theorem msgIndex_val (i : Fin 64) :
    (msgIndex i).val = ((groupOf i).offset + (groupOf i).stride * i.val) % 16 := by
  unfold msgIndex
  cases groupOf i <;> simp [RoundGroup.offset, RoundGroup.stride]

/-- The closed form read with the global step number or with the position in the group, which differ by a multiple of
16 (R79). -/
theorem msgIndex_readings {i : Fin 64} {g : RoundGroup} (h : groupOf i = g) :
    (msgIndex i).val = (g.offset + g.stride * i.val) % 16 ∧
      (msgIndex i).val = (g.offset + g.stride * (i.val - 16 * g.quarter)) % 16 := by
  have same : i.val ≡ i.val - 16 * g.quarter [MOD 16] := by
    rw [← groupOf_eq_iff.mp h]
    show i.val % 16 = (i.val - 16 * (i.val / 16)) % 16
    omega
  rw [msgIndex_val, h]
  exact ⟨rfl, (same.mul_left _).add_left _⟩

/-- The strides are units modulo 16, so within a group the index determines the step (R78). -/
theorem eq_of_msgIndex_eq {i j : Fin 64} (group : i.val / 16 = j.val / 16) (index : msgIndex i = msgIndex j) :
    i = j := by
  have sameGroup : groupOf i = groupOf j := by rw [groupOf_eq_iff, quarter_groupOf, group]
  have affine := congrArg Fin.val index
  rw [msgIndex_val, msgIndex_val, sameGroup] at affine
  have position : i.val % 16 = j.val % 16 :=
    (Nat.ModEq.add_left_cancel' _ affine).cancel_left_of_coprime (groupOf j).coprime_stride
  omega

/-! The rotation amount (R80) -/

theorem rotations_getD (g : RoundGroup) (k : Fin 4) :
    (rotations g)[k] = [7, 12, 17, 22, 5, 9, 14, 20, 4, 11, 16, 23, 6, 10, 15, 21].getD (4 * g.quarter + k.val) 0 := by
  revert k
  cases g <;> decide

theorem rotations_bounds (g : RoundGroup) (k : Fin 4) : 4 ≤ (rotations g)[k] ∧ (rotations g)[k] ≤ 23 := by
  revert k
  cases g <;> decide

theorem rotAmount_eq (i : Fin 64) :
    rotAmount i = [7, 12, 17, 22, 5, 9, 14, 20, 4, 11, 16, 23, 6, 10, 15, 21].getD (4 * (i.val / 16) + i.val % 4) 0 := by
  rw [← quarter_groupOf]
  exact rotations_getD (groupOf i) ⟨i.val % 4, Nat.mod_lt _ (by decide)⟩

theorem rotAmount_bounds (i : Fin 64) : 4 ≤ rotAmount i ∧ rotAmount i ≤ 23 :=
  rotations_bounds (groupOf i) ⟨i.val % 4, Nat.mod_lt _ (by decide)⟩

/-- Settles O43: the range of a step names its group, and the function and both forms of the index follow from it. -/
theorem stepParameters : Obligations.StepParameters := by
  refine ⟨fun i => ⟨?_, ?_, ?_, ?_, ?_, ?_, ?_, ?_, rotAmount_eq i, rotAmount_bounds i⟩, fun _ _ => eq_of_msgIndex_eq⟩
  · exact fun h => congrArg roundFn (groupOf_one h)
  · exact fun h h' => congrArg roundFn (groupOf_two h h')
  · exact fun h h' => congrArg roundFn (groupOf_three h h')
  · exact fun h => congrArg roundFn (groupOf_four h)
  · intro h
    rw [msgIndex_val, groupOf_one h]
    simp [RoundGroup.offset, RoundGroup.stride, Nat.mod_eq_of_lt h]
  · exact fun h h' => msgIndex_readings (groupOf_two h h')
  · exact fun h h' => msgIndex_readings (groupOf_three h h')
  · intro h
    simpa [RoundGroup.offset, RoundGroup.stride, RoundGroup.quarter] using msgIndex_readings (groupOf_four h)

end Sys2Proof.Machine
end

section
/-! PROOFS. The serializer is a bijection (spec/43_finalization.md R91): the four 32-bit words of the packed response are
read back from the 16 bytes, and the bytes of those words are the 16 bytes again. -/

namespace Sys2Proof.Machine

/-- The words at RSP_DATA[31:0], [63:32], [95:64] and [127:96], where R92 puts A, B, C and D. -/
def responseWords (v : BitVec 128) : Quad :=
  ⟨v.extractLsb' 0 32, v.extractLsb' 32 32, v.extractLsb' 64 32, v.extractLsb' 96 32⟩

theorem responseWords_packDigest_serialize (H : Quad) : responseWords (packDigest (serialize H)) = H := by
  obtain ⟨a, b, c, d⟩ := responsePacking.2 H
  simp only [responseWords, a, b, c, d]

/-- Byte j of the 32-bit slice from byte k on is byte k + j of the whole string. -/
theorem byteOf_extractLsb' {w : Nat} (v : BitVec w) (k j : Nat) (hj : j < 4) :
    byteOf (v.extractLsb' (8 * k) 32) j = byteOf v (k + j) := by
  apply BitVec.eq_of_getLsbD_eq
  intro i hi
  have inside : 8 * j + i < 32 := by omega
  have position : 8 * k + (8 * j + i) = 8 * (k + j) + i := by omega
  simp [byteOf, hi, inside, position]

theorem serialize_responseWords_toList (v : BitVec 128) : (serialize (responseWords v)).toList = bytesLe 16 v := by
  have byte (k j : Nat) (hj : j < 4) := byteOf_extractLsb' v k j hj
  simp [serialize, responseWords, bytesLe, List.range_succ, byte 0, byte 4, byte 8, byte 12]

theorem bytesLe_packDigest (d : Digest) : bytesLe 16 (packDigest d) = d.toList := by
  apply List.ext_getElem
  · simp
  · intro k hk _
    simp only [bytesLe_length] at hk
    simp [bytesLe, byteOf_packDigest d k hk]

theorem serialize_responseWords_packDigest (d : Digest) : serialize (responseWords (packDigest d)) = d :=
  Vector.toList_inj.1 ((serialize_responseWords_toList _).trans (bytesLe_packDigest d))

/-- Settles O37: the order of the bytes is `serialize_toList`'s, and reading the words of the packed response undoes the
serializer on both sides. -/
theorem serializeIsBijective : Obligations.SerializeIsBijective := by
  refine ⟨fun H => ?_, Function.bijective_iff_has_inverse.2 ⟨fun d => responseWords (packDigest d), ?_, ?_⟩⟩
  · simp [serialize_toList, bytesLe32, bytesLe, byteOf, List.range_succ]
  · exact responseWords_packDigest_serialize
  · exact serialize_responseWords_packDigest

end Sys2Proof.Machine
end

section
/-! PROOFS. The commands against the legality table (spec/44_commands.md R99 to R105, R110): the effect of a command
where the table allows it, the SEQUENCE error elsewhere, the plain rejection in ERROR; and FINAL's blocks by byte. -/

namespace Sys2Proof.Machine

/-! The legality table, one row for each command (R100) -/

@[simp] theorem legal_init_iff {f : Fsm} : legal .init f = true ↔ f = .idle ∨ f = .done := by cases f <;> decide

@[simp] theorem legal_update_iff {f : Fsm} : legal .update f = true ↔ f = .absorb := by cases f <;> decide

@[simp] theorem legal_final_iff {f : Fsm} : legal .final f = true ↔ f = .absorb := by cases f <;> decide

@[simp] theorem legal_read_iff {f : Fsm} : legal .read f = true ↔ f = .done := by cases f <;> decide

theorem legal_opcode_iff {i : Instr} {f : Fsm} :
    legal i.opcode f = true ↔
      i = .init ∧ (f = .idle ∨ f = .done) ∨ (∃ n din, i = .update n din) ∧ f = .absorb ∨
        i = .final ∧ f = .absorb ∨ i = .read ∧ f = .done := by
  cases i <;> simp [Instr.opcode]

/-! Executing by the table -/

/-- What a command does where the legality table allows it (R101, R102, R104, R105). -/
def effect : Instr → State → State
  | .init => startComputation
  | .update n din => absorbPayload n.toNat din
  | .final => finishComputation
  | .read => returnDigest

theorem exec_of_wellFormed {i : Instr} (h : i.wellFormed = true) (s : State) :
    exec i s = .next (whenLegal i.opcode s (effect i)) := by
  cases i with
  | update n din => exact if_neg (by simpa [Instr.wellFormed] using h)
  | init | final | read => rfl

theorem exec_of_legal {i : Instr} {s : State} (h : i.wellFormed = true) (allowed : legal i.opcode s.fsm = true) :
    exec i s = .next (effect i s) := by
  rw [exec_of_wellFormed h, whenLegal, if_pos allowed]

/-- The SEQUENCE error: outside ERROR, STATE, ERRCODE and the response are all it writes (R100, R114). -/
theorem exec_of_not_legal {i : Instr} {s : State} (h : i.wellFormed = true)
    (refused : ¬ legal i.opcode s.fsm = true) (hs : s.fsm ≠ .error) :
    exec i s = .next { s with fsm := .error, errcode := 3, channel := .responding ⟨false, 0⟩ } := by
  rw [exec_of_wellFormed h, whenLegal, if_neg refused, reject_outside_error _ s hs]
  rfl

/-- In ERROR every command, well formed or not, is answered (0, 0) and changes nothing else (R117). -/
theorem exec_in_error (i : Instr) {s : State} (hs : s.fsm = .error) :
    exec i s = .next { s with channel := .responding ⟨false, 0⟩ } := by
  obtain ⟨t, e⟩ := exec_next i s
  obtain ⟨k, rfl⟩ | ⟨allowed, -⟩ := exec_cases e
  · rw [e, reject_in_error k s hs]
    rfl
  · simp [hs] at allowed

theorem effect_channel (i : Instr) (s : State) : ∃ data, (effect i s).channel = .responding ⟨true, data⟩ := by
  cases i <;> exact ⟨_, rfl⟩

theorem effect_fsm_ne_error (i : Instr) {s : State} (hs : s.fsm ≠ .error) : (effect i s).fsm ≠ .error := by
  cases i with
  | init | final => simp [effect, startComputation, finishComputation]
  | update n din => simpa [effect, absorbPayload, absorbBytes_frame] using hs
  | read => exact hs

/-- Settles O19: the claim's table is `legal`, row by row. -/
theorem legalityByState : Obligations.LegalityByState := by
  intro i s wellFormed
  refine ⟨fun runs => ?_, fun misplaced => exec_of_not_legal wellFormed (mt legal_opcode_iff.1 misplaced),
    exec_in_error i⟩
  have allowed : legal i.opcode s.fsm = true := legal_opcode_iff.2 runs
  have outsideError : s.fsm ≠ .error := fun hs => by simp [hs] at allowed
  obtain ⟨data, response⟩ := effect_channel i s
  exact ⟨effect i s, _, exec_of_legal wellFormed allowed, response, rfl, effect_fsm_ne_error i outsideError⟩

/-- Settles O8: the table's row for INIT, with the effect written out. -/
theorem initStartsComputation : Obligations.InitStartsComputation := by
  refine ⟨fun _ => decode_eq_init_iff.2 rfl, fun s => ⟨fun start => ?_, fun absorbing => ?_, exec_in_error .init⟩⟩
  · exact exec_of_legal rfl (legal_init_iff.2 start)
  · exact exec_of_not_legal rfl (by simp [Instr.opcode, absorbing]) (by simp [absorbing])

theorem absorbPayload_zero (din : Payload) (s : State) :
    absorbPayload 0 din s = { s with channel := .responding ⟨true, 0⟩ } := by
  simp [absorbPayload, payloadBytes, bytesLe, addBits, respond]

/-- Settles O10: with no payload byte nothing is absorbed and LEN grows by 0. -/
theorem updateOfZeroBytes : Obligations.UpdateOfZeroBytes := by
  intro s din
  refine ⟨decode_eq_update_iff.2 ⟨by decide, rfl, rfl⟩, fun absorbing => ?_, fun misplaced => ?_⟩
  · have run : exec (.update 0 din) s = .next (absorbPayload 0 din s) :=
      exec_of_legal (i := .update 0 din) rfl (legal_update_iff.2 absorbing)
    exact run.trans (congrArg _ (absorbPayload_zero din s))
  · obtain h | h := misplaced <;> exact exec_of_not_legal rfl (by simp [Instr.opcode, h]) (by simp [h])

/-- Settles O13: the table's row for READ, whose effect writes the response alone. -/
theorem readReturnsTheDigest : Obligations.ReadReturnsTheDigest := by
  refine ⟨fun _ => decode_eq_read_iff.2 rfl, fun s => ⟨exec_read_of_done, fun misplaced => ?_, exec_in_error .read⟩⟩
  obtain h | h := misplaced <;> exact exec_of_not_legal rfl (by simp [Instr.opcode, h]) (by simp [h])

/-! FINAL's blocks, byte by byte (R66, R67) -/

theorem bytesLe64_getD (v : BitLen) {k : Nat} (hk : k < 8) : (bytesLe64 v).getD k 0 = byteOf v k := by
  simp [bytesLe64, bytesLe, hk]

/-- The padded tail by position: the tail, 0x80, zeros up to `trailer`, and there the eight bytes of the bit length. -/
theorem paddedTail_getD {tail : List Byte} {trailer : Nat} (h : tail.length < 64)
    (ht : trailer = if tail.length < 56 then 56 else 120) (bitlen : BitLen) {k : Nat} (hk : k < trailer + 8) :
    (paddedTail tail bitlen).getD k 0 =
      if k < tail.length then tail.getD k 0
      else if k = tail.length then 0x80
      else if trailer ≤ k then byteOf bitlen (k - trailer)
      else 0 := by
  obtain ⟨z, few, upTo56, padded⟩ := paddedTail_zeroCount tail bitlen h
  have prefixLength : (tail ++ [0x80] ++ zeros z).length = trailer := by
    simp only [zeros, List.length_append, List.length_singleton, List.length_replicate]
    split at ht <;> omega
  rw [padded]
  by_cases inTail : k < tail.length
  · simp [inTail, List.getElem?_append]
  by_cases atEnd : k = tail.length
  · simp [atEnd]
  rw [if_neg inTail, if_neg atEnd]
  by_cases inTrailer : trailer ≤ k
  · rw [if_pos inTrailer, List.getD_append_right _ _ _ _ (by omega), prefixLength, bytesLe64_getD _ (by omega)]
  · rw [if_neg inTrailer, List.getD_append _ _ _ _ (by omega), List.getD_append_right _ _ _ _ (by simp; omega)]
    simp [zeros]

theorem tail_getD {s : State} {k : Nat} (hk : k < s.bcnt.val) : s.tail.getD k 0 = s.buf[k] := by
  simp [State.tail, hk]

theorem tail_length_lt (s : State) : s.tail.length < 64 := by
  rw [tail_length]
  exact s.bcnt.isLt

theorem firstFinalBlock_eq (s : State) : firstFinalBlock s = toBlock ((paddedTail s.tail s.len).take 64) := by
  apply Vector.ext
  intro k hk
  have padded := paddedTail_getD (tail_length_lt s) rfl s.len (k := k) (by split <;> omega)
  have taken : ((paddedTail s.tail s.len).take 64).getD k 0 = (paddedTail s.tail s.len).getD k 0 := by
    simp [hk]
  rw [toBlock_getElem, taken, padded, tail_length]
  simp only [firstFinalBlock, Vector.getElem_ofFn, Fin.ext_iff]
  by_cases inTail : k < s.bcnt.val
  · rw [if_pos inTail, if_pos inTail, tail_getD inTail]
    rfl
  by_cases short : s.bcnt.val < 56
  · simp [inTail, short]
  · simp [inTail, short, show ¬ 120 ≤ k by omega]

theorem secondFinalBlock_eq {s : State} (long : 56 ≤ s.bcnt.val) :
    secondFinalBlock s = toBlock ((paddedTail s.tail s.len).drop 64) := by
  apply Vector.ext
  intro k hk
  have trailer : 120 = if s.tail.length < 56 then 56 else 120 := by rw [tail_length, if_neg (by omega)]
  have padded := paddedTail_getD (tail_length_lt s) trailer s.len (k := 64 + k) (by omega)
  have dropped : ((paddedTail s.tail s.len).drop 64).getD k 0 = (paddedTail s.tail s.len).getD (64 + k) 0 := by simp
  rw [toBlock_getElem, dropped, padded, tail_length, if_neg (by omega), if_neg (by omega)]
  simp only [secondFinalBlock, Vector.getElem_ofFn]
  by_cases zero : k < 56
  · rw [if_pos zero, if_neg (by omega)]
  · rw [if_neg zero, if_pos (by omega), show 64 + k - 120 = k - 56 by omega]

theorem padTail_of_le {s : State} (h : s.bcnt.val ≤ 55) : padTail s.tail s.len = [firstFinalBlock s] := by
  have short : s.tail.length < 56 := by rw [tail_length]; omega
  have len := paddedTail_length s.tail s.len (tail_length_lt s)
  rw [if_pos short] at len
  rw [firstFinalBlock_eq, List.take_of_length_le len.le, padTail, if_pos short]

theorem padTail_of_ge {s : State} (h : 56 ≤ s.bcnt.val) :
    padTail s.tail s.len = [firstFinalBlock s, secondFinalBlock s] := by
  have long : ¬ s.tail.length < 56 := by rw [tail_length]; omega
  rw [firstFinalBlock_eq, secondFinalBlock_eq h, padTail, if_neg long]

/-- Settles O12: FINAL folds in PadTail of the tail, which is one block or two. -/
theorem finalPadsAndLatches : Obligations.FinalPadsAndLatches := by
  refine ⟨fun _ => decode_eq_final_iff.2 rfl, fun s => ⟨fun absorbing => ?_, fun misplaced => ?_, exec_in_error .final⟩⟩
  · obtain ⟨w, buf, bcnt, len, k, finish⟩ := finishComputation_eq s
    have run : exec .final s = .next (finishComputation s) :=
      exec_of_legal (i := .final) rfl (legal_final_iff.2 absorbing)
    refine ⟨_, run.trans (congrArg _ finish), fun h => ?_, fun h => ?_, rfl, rfl, rfl, rfl, rfl, rfl⟩
    · simp [padTail_of_le h]
    · simp [padTail_of_ge h]
  · obtain h | h := misplaced <;> exact exec_of_not_legal rfl (by simp [Instr.opcode, h]) (by simp [h])

end Sys2Proof.Machine
end

section
/-! PROOFS. The message of a computation (spec/44_commands.md R109, spec/10_state.md R33): INIT absorbs the empty
message, an UPDATE appends its payload bytes, FINAL latches the digest of what was absorbed. -/

namespace Sys2Proof.Machine

/-! The blocks and the tail of a longer message (R64, R65) -/

/-- Past the full blocks of `msg` stand its tail and whatever is appended. -/
theorem drop_fullCount_append (msg bs : List Byte) :
    (msg ++ bs).drop (64 * fullCount msg) = tailBytes msg ++ bs :=
  List.drop_append_of_le_length (Nat.mul_div_le _ 64)

/-- The full blocks of `msg` are the first blocks of whatever it is extended to. -/
theorem map_range_fullCount_append (msg bs : List Byte) :
    (List.range (fullCount msg)).map (fun k => toBlock (((msg ++ bs).drop (64 * k)).take 64)) = fullBlocks msg := by
  refine List.map_congr_left fun k hk => ?_
  have inside : 64 * k + 64 ≤ msg.length := by
    have := List.mem_range.1 hk
    rw [fullCount] at this
    omega
  rw [List.drop_append_of_le_length (by omega), List.take_append_of_le_length (by simp; omega)]

theorem fullCount_append_below {msg bs : List Byte} (h : msg.length % 64 + bs.length < 64) :
    fullCount (msg ++ bs) = fullCount msg := by
  simp only [fullCount, List.length_append]
  omega

theorem fullCount_append_filled {msg bs : List Byte} (h : 64 ≤ msg.length % 64 + bs.length) (hb : bs.length ≤ 64) :
    fullCount (msg ++ bs) = fullCount msg + 1 := by
  simp only [fullCount, List.length_append]
  omega

theorem fullBlocks_append_below {msg bs : List Byte} (h : msg.length % 64 + bs.length < 64) :
    fullBlocks (msg ++ bs) = fullBlocks msg := by
  rw [fullBlocks, fullCount_append_below h, map_range_fullCount_append]

theorem tailBytes_append_below {msg bs : List Byte} (h : msg.length % 64 + bs.length < 64) :
    tailBytes (msg ++ bs) = tailBytes msg ++ bs := by
  rw [tailBytes, fullCount_append_below h, drop_fullCount_append]

theorem fullBlocks_append_filled {msg bs : List Byte} (h : 64 ≤ msg.length % 64 + bs.length) (hb : bs.length ≤ 64) :
    fullBlocks (msg ++ bs) = fullBlocks msg ++ [toBlock ((tailBytes msg ++ bs).take 64)] := by
  rw [fullBlocks, fullCount_append_filled h hb, List.range_succ, List.map_append, map_range_fullCount_append,
    List.map_singleton, drop_fullCount_append]

theorem tailBytes_append_filled {msg bs : List Byte} (h : 64 ≤ msg.length % 64 + bs.length) (hb : bs.length ≤ 64) :
    tailBytes (msg ++ bs) = (tailBytes msg ++ bs).drop 64 := by
  rw [tailBytes, fullCount_append_filled h hb, ← drop_fullCount_append, List.drop_drop, Nat.mul_succ]

theorem bitLength_append (msg bs : List Byte) :
    bitLength (msg ++ bs) = bitLength msg + BitVec.ofNat 64 (8 * bs.length) := by
  rw [bitLength, List.length_append, Nat.mul_add, BitVec.ofNat_add, bitLength]

/-! The effects of INIT, UPDATE and FINAL -/

theorem absorbed_startComputation (s : State) : Absorbed [] (startComputation s) :=
  ⟨rfl, rfl, rfl, rfl, rfl⟩

/-- Absorbing up to 64 bytes extends H, BCNT and the tail to those of the longer message (R72, R103). -/
theorem absorbed_absorbPayload {msg : List Byte} {s : State} (h : Absorbed msg s) {n : Nat} (hn : n ≤ 64)
    (din : Payload) : Absorbed (msg ++ payloadBytes n din) (absorbPayload n din s) := by
  set bs := payloadBytes n din with hbs
  have length : bs.length = n := payloadBytes_length n din
  obtain ⟨fsm, -, len, -, -, -, -⟩ := absorbBytes_frame s bs
  obtain ⟨-, below, filled⟩ := absorbBytes_spec bs s (by omega)
  obtain ⟨absorbing, digestState, count, bitLen, tail⟩ := h
  have longer : (absorbPayload n din s).len = bitLength (msg ++ bs) := by
    simp [absorbPayload, addBits, ← hbs, bitLength_append, length, len, bitLen]
  rw [count, digestState, tail] at below filled
  by_cases full : 64 ≤ msg.length % 64 + bs.length
  · obtain ⟨H, bcnt, rest⟩ := filled full
    refine ⟨fsm.trans absorbing, H.trans ?_, bcnt.trans ?_, longer, rest.trans ?_⟩
    · rw [fullBlocks_append_filled full (by omega), foldBlocks_append, foldBlocks_cons, foldBlocks_nil]
    · rw [List.length_append]
      omega
    · exact (tailBytes_append_filled full (by omega)).symm
  · obtain ⟨H, -, -, bcnt, rest⟩ := below (by omega)
    refine ⟨fsm.trans absorbing, H.trans ?_, bcnt.trans ?_, longer, rest.trans ?_⟩
    · rw [fullBlocks_append_below (by omega)]
    · rw [List.length_append]
      omega
    · exact (tailBytes_append_below (by omega)).symm

/-- The final blocks of the absorbed tail are the last blocks of `pad` (R70, R72). -/
theorem finished_finishComputation {msg : List Byte} {s : State} (h : Absorbed msg s) :
    Finished msg (finishComputation s) := by
  obtain ⟨-, digestState, -, bitLen, tail⟩ := h
  obtain ⟨w, buf, bcnt, len, k, finish⟩ := finishComputation_eq s
  refine ⟨rfl, ?_⟩
  rw [finish, computeDigest, pad, foldBlocks_append, ← digestState, ← tail, ← bitLen]

end Sys2Proof.Machine
end

section
/-! PROOFS. Commands issued through the ports (spec/30_encoding.md R60, R131): a run under a host that issues commands
executes them in order, and the ports' values reach nothing but the channel and the host's record. -/

namespace Sys2Proof.Machine

/-! The ports beside the engine -/

/-- The same engine with other values on its ports' side: the channels, the host's coming input values and the responses
it has taken. -/
def State.withPorts (s : State) (channel : Channel) (inputs : List PortIn) (received : List Response) : State :=
  { s with channel := channel, inputs := inputs, received := received }

section
variable (s : State) (ch : Channel) (inputs : List PortIn) (received : List Response)

@[simp] theorem withPorts_errcode : (s.withPorts ch inputs received).errcode = s.errcode := rfl

theorem absorbByte_withPorts (x : Byte) :
    absorbByte (s.withPorts ch inputs received) x = (absorbByte s x).withPorts ch inputs received := by
  obtain ⟨full, e⟩ | ⟨below, e⟩ := absorbByte_cases s x
  · rw [e]
    exact if_pos full
  · rw [e]
    exact if_neg below

theorem absorbBytes_withPorts (bs : List Byte) :
    absorbBytes (s.withPorts ch inputs received) bs = (absorbBytes s bs).withPorts ch inputs received := by
  induction bs generalizing s with
  | nil => rfl
  | cons b bs ih => rw [absorbBytes_cons, absorbByte_withPorts, ih, absorbBytes_cons]

theorem foldPasses_withPorts (blks : List Block) :
    foldPasses blks (s.withPorts ch inputs received) = (foldPasses blks s).withPorts ch inputs received := by
  induction blks generalizing s with
  | nil => rfl
  | cons blk blks ih => exact ih (passOver blk s)

theorem absorbPayload_withPorts (n : Nat) (din : Payload) :
    absorbPayload n din (s.withPorts ch inputs received) =
      (absorbPayload n din s).withPorts (.responding ⟨true, 0⟩) inputs received := by
  simp only [absorbPayload, absorbBytes_withPorts]
  rfl

theorem finishComputation_withPorts :
    finishComputation (s.withPorts ch inputs received) =
      (finishComputation s).withPorts (.responding ⟨true, 0⟩) inputs received := by
  simp only [finishComputation, latchDigest, foldPasses_withPorts]
  rfl

/-- An effect reads nothing of the ports' side and writes its response there and no more. -/
theorem effect_withPorts (i : Instr) :
    effect i (s.withPorts ch inputs received) = (effect i s).withPorts (effect i s).channel inputs received := by
  cases i with
  | init | read => rfl
  | update n din => exact absorbPayload_withPorts s ch inputs received n.toNat din
  | final => exact finishComputation_withPorts s ch inputs received

end

@[simp] theorem effect_errcode (i : Instr) (s : State) : (effect i s).errcode = s.errcode := by
  cases i with
  | init | read => rfl
  | update n din => simp [effect, absorbPayload, absorbBytes_frame]
  | final =>
    obtain ⟨w, buf, bcnt, len, k, finish⟩ := finishComputation_eq s
    rw [effect, finish]

/-! One command through the handshake (R131) -/

section
variable {s : State} (legalErrcode : s.errcode.toNat ≤ 3)
include legalErrcode

theorem step_withPorts {p : PortIn} (released : p.rstN = true) (ch : Channel) (ports : List PortIn)
    (received : List Response) :
    step (s.withPorts ch (p :: ports) received) = channelStep p (s.withPorts ch ports received) := by
  have noFault : ¬ reservedErrcode s.errcode = true := by simp [reservedErrcode_of_le legalErrcode]
  change portStep p (s.withPorts ch ports received) = _
  rw [portStep, if_neg (by simp [released]), withPorts_errcode, if_neg noFault]

theorem step_wait {p : PortIn} (released : p.rstN = true) (noOffer : p.cmdValid = false) (ports : List PortIn)
    (received : List Response) :
    step (s.withPorts .ready (p :: ports) received) = .next (s.withPorts .ready ports received) := by
  rw [step_withPorts legalErrcode released]
  exact congrArg _ (if_neg (by simp [noOffer]))

theorem step_accept {p : PortIn} (released : p.rstN = true) (offered : p.cmdValid = true) (ports : List PortIn)
    (received : List Response) :
    step (s.withPorts .ready (p :: ports) received) = .next (s.withPorts (.busy p.command) ports received) := by
  rw [step_withPorts legalErrcode released]
  exact congrArg _ (if_pos offered)

theorem step_execute {p : PortIn} (released : p.rstN = true) {c : Command} {i : Instr} (decoded : decode c = .ok i)
    (wellFormed : i.wellFormed = true) (allowed : legal i.opcode s.fsm = true) (ports : List PortIn)
    (received : List Response) :
    step (s.withPorts (.busy c) (p :: ports) received) =
      .next ((effect i s).withPorts (effect i s).channel ports received) := by
  rw [step_withPorts legalErrcode released, ← effect_withPorts s (.busy c) ports received]
  exact (execute_of_decode_ok decoded _).trans (exec_of_legal wellFormed allowed)

theorem step_take {p : PortIn} (released : p.rstN = true) (takes : p.rspReady = true) (r : Response)
    (ports : List PortIn) (received : List Response) :
    step (s.withPorts (.responding r) (p :: ports) received) = .next (s.withPorts .ready ports (received ++ [r])) := by
  rw [step_withPorts legalErrcode released]
  exact congrArg _ (if_pos takes)

theorem step_hold {p : PortIn} (released : p.rstN = true) (held : p.rspReady = false) (r : Response)
    (ports : List PortIn) (received : List Response) :
    step (s.withPorts (.responding r) (p :: ports) received) = .next (s.withPorts (.responding r) ports received) := by
  rw [step_withPorts legalErrcode released]
  exact congrArg _ (if_neg (by simp [held]))

/-- A response stays on offer as long as the host does not take it. -/
theorem run_hold {held : List PortIn} (holds : ∀ p ∈ held, p.rstN = true ∧ p.rspReady = false) (r : Response)
    (ports : List PortIn) (received : List Response) :
    Host.Core.run core held.length (s.withPorts (.responding r) (held ++ ports) received) =
      .next (s.withPorts (.responding r) ports received) := by
  induction held with
  | nil => rfl
  | cons p held ih =>
    obtain ⟨⟨released, untaken⟩, holds⟩ := List.forall_mem_cons.1 holds
    exact (run_next (step_hold legalErrcode released untaken r _ received)).trans (ih holds)

/-- A response held as long as the host likes is then taken, once. -/
theorem run_response {held : List PortIn} (holds : ∀ p ∈ held, p.rstN = true ∧ p.rspReady = false) {take : PortIn}
    (released : take.rstN = true) (takes : take.rspReady = true) (r : Response) (ports : List PortIn)
    (received : List Response) :
    Host.Core.run core (held.length + 1) (s.withPorts (.responding r) (held ++ take :: ports) received) =
      .next (s.withPorts .ready ports (received ++ [r])) :=
  (run_add _ _ _ _ (run_hold legalErrcode holds r _ received)).trans
    (run_next (step_take legalErrcode released takes r ports received))

end

/-! A sequence of commands -/

/-- Commands executed one after another, each where the legality table allows it, with their responses in order. -/
inductive Executes : State → List Instr → List Response → State → Prop where
  | nil (s : State) : Executes s [] [] s
  | cons {s t : State} {i : Instr} {is : List Instr} {r : Response} {rs : List Response} :
      i.wellFormed = true → legal i.opcode s.fsm = true → (effect i s).channel = .responding r →
      Executes (effect i s) is rs t → Executes s (i :: is) (r :: rs) t

theorem Executes.append {s t u : State} {is js : List Instr} {rs qs : List Response} (first : Executes s is rs t)
    (second : Executes t js qs u) : Executes s (is ++ js) (rs ++ qs) u := by
  induction first with
  | nil => exact second
  | cons wellFormed allowed response _ ih => exact .cons wellFormed allowed response (ih second)

theorem Executes.errcode_eq {s t : State} {is : List Instr} {rs : List Response} (h : Executes s is rs t) :
    t.errcode = s.errcode := by
  induction h with
  | nil => rfl
  | cons _ _ _ _ ih => rw [ih, effect_errcode]

/-- However long the host waits, its commands execute in order and it takes their responses in order (R109, R131). -/
theorem run_hostIssues {cs : List Command} {ports : List PortIn} (issues : HostIssues cs ports) {s t : State}
    {is : List Instr} {rs : List Response} (executes : Executes s is rs t) (decoded : cs.map decode = is.map .ok)
    (legalErrcode : s.errcode.toNat ≤ 3) (rest : List PortIn) (received : List Response) :
    Host.Core.run core ports.length (s.withPorts .ready (ports ++ rest) received) =
      .next (t.withPorts .ready rest (received ++ rs)) := by
  induction issues generalizing s is rs received with
  | finished =>
    cases executes with
    | nil => simp [Host.Core.run]
    | cons => cases decoded
  | wait p released noOffer _ ih =>
    exact (run_next (step_wait legalErrcode released noOffer _ received)).trans
      (ih executes decoded legalErrcode received)
  | @command offer busy take held _ ports offerReleased offered busyReleased holds takeReleased takes _ ih =>
    cases executes with
    | nil => cases decoded
    | cons wellFormed allowed response executes =>
      obtain ⟨decodedFirst, decoded⟩ := List.cons.inj decoded
      have legalAfter (i : Instr) : (effect i s).errcode.toNat ≤ 3 := by rwa [effect_errcode]
      have length : (offer :: busy :: (held ++ take :: ports)).length = held.length + 1 + ports.length + 1 + 1 := by
        simp
        omega
      rw [length, List.cons_append, List.cons_append, List.append_assoc, List.cons_append,
        run_next (step_accept legalErrcode offerReleased offered _ received),
        run_next (step_execute legalErrcode busyReleased decodedFirst wellFormed allowed _ received), response,
        run_add _ _ _ _ (run_response (legalAfter _) holds takeReleased takes _ _ received),
        ih executes decoded (legalAfter _), List.append_assoc, List.singleton_append]

/-! A computation (R109) -/

/-- The UPDATEs of a computation extend the absorbed message by theirs. -/
theorem executes_updates {us : List (BitVec 7 × Payload)} (sizes : ∀ u ∈ us, u.1.toNat ≤ 64) {msg : List Byte}
    {s : State} (h : Absorbed msg s) :
    ∃ t, Executes s (updates us) (List.replicate us.length ⟨true, 0⟩) t ∧ Absorbed (msg ++ messageOf us) t := by
  induction us generalizing msg s with
  | nil => exact ⟨s, .nil s, by simpa [messageOf] using h⟩
  | cons u us ih =>
    obtain ⟨size, sizes⟩ := List.forall_mem_cons.1 sizes
    obtain ⟨t, executes, absorbed⟩ := ih sizes (absorbed_absorbPayload h size u.2)
    refine ⟨t, .cons (i := .update u.1 u.2) (decide_eq_true size) (legal_update_iff.2 h.absorbing) rfl executes, ?_⟩
    simpa [messageOf] using absorbed

/-- A computation from IDLE or DONE executes throughout and answers READ with the digest of its message. -/
theorem executes_computation {us : List (BitVec 7 × Payload)} (sizes : ∀ u ∈ us, u.1.toNat ≤ 64) {s : State}
    (start : s.fsm = .idle ∨ s.fsm = .done) :
    ∃ t, t.fsm = .done ∧ Executes s (computation us)
      (List.replicate (us.length + 2) ⟨true, 0⟩ ++ [⟨true, packDigest (computeDigest (messageOf us))⟩]) t := by
  obtain ⟨t, executes, absorbed⟩ := executes_updates sizes (absorbed_startComputation s)
  have finished := finished_finishComputation absorbed
  have read : (effect .read (effect .final t)).channel =
      .responding ⟨true, packDigest (computeDigest (messageOf us))⟩ :=
    congrArg (fun d => Channel.responding ⟨true, packDigest d⟩) finished.digest
  have ending := Executes.cons (i := .final) rfl (legal_final_iff.2 absorbed.absorbing) rfl
    (.cons (i := .read) rfl (legal_read_iff.2 finished.done) read (.nil _))
  refine ⟨effect .read (effect .final t), finished.done, ?_⟩
  rw [List.replicate_succ, List.replicate_succ', List.cons_append, List.append_assoc]
  exact .cons rfl (legal_init_iff.2 start) rfl (executes.append ending)

theorem sizes_of_decode {us : List (BitVec 7 × Payload)} {cs : List Command}
    (h : cs.map decode = (computation us).map .ok) : ∀ u ∈ us, u.1.toNat ≤ 64 := by
  intro u hu
  have issued : Except.ok (.update u.1 u.2) ∈ cs.map decode := by
    rw [h]
    exact List.mem_map_of_mem (List.mem_cons_of_mem _ (List.mem_append_left _ (List.mem_map_of_mem hu)))
  obtain ⟨c, -, decoded⟩ := List.mem_map.1 issued
  exact (decode_eq_update_iff.1 decoded).1

/-- Settles O51: `run_hostIssues` reduces every way of waiting to the commands in order, and a computation from IDLE or
DONE executes them all. -/
theorem computationReturnsTheDigest : Obligations.ComputationReturnsTheDigest := by
  intro s us cs ports rest start ready legalErrcode decoded issues inputs
  obtain ⟨t, done, executes⟩ := executes_computation (sizes_of_decode decoded) start
  have run := run_hostIssues issues executes decoded legalErrcode rest s.received
  have here : s.withPorts .ready (ports ++ rest) s.received = s := by
    rw [← inputs, ← ready]
    rfl
  rw [here] at run
  exact ⟨_, run, by simp [State.withPorts], done, executes.errcode_eq, rfl, rfl⟩

end Sys2Proof.Machine
end

section
/-! PROOFS. Errors (spec/60_exceptions.md R114 to R119): the order of the causes, what a rejection writes, and what can
happen in ERROR; and the engine at rest between commands (spec/70_reset_and_hazards.md R127). -/

namespace Sys2Proof

/-! The causes by the fields of a word (R115) -/

/-- An OP with an opcode is not one of the illegal values (R53). -/
theorem Opcode.code_legal (op : Opcode) : ¬ (op.code.toNat = 0 ∨ 5 ≤ op.code.toNat) := by cases op <;> decide

/-- The counts an opcode reserves (R54). -/
theorem Opcode.allowsCount_eq_false_iff {op : Opcode} {n : BitVec 7} :
    op.allowsCount n = false ↔ (op.code.toNat = 2 ∧ 64 < n.toNat) ∨ (op.code.toNat ≠ 2 ∧ n ≠ 0) := by
  cases op <;> simp [Opcode.allowsCount, Opcode.code]

end Sys2Proof

namespace Sys2Proof.Machine

/-- Outside ERROR, where the legality table says "SEQUENCE error" (R100). -/
theorem legal_eq_false_iff {op : Opcode} {f : Fsm} (hf : f ≠ .error) :
    legal op f = false ↔ op.code.toNat = 1 ∧ f = .absorb ∨ (op.code.toNat = 2 ∨ op.code.toNat = 3) ∧ f ≠ .absorb ∨
      op.code.toNat = 4 ∧ f ≠ .done := by
  revert hf
  cases op <;> cases f <;> decide

theorem causeCode_cases (k : Cause) : causeCode k = 1 ∨ causeCode k = 2 ∨ causeCode k = 3 := by cases k <;> decide

/-! A command word outside ERROR and in it -/

/-- A decoded command has passed the field checks. -/
theorem wellFormed_of_decode {c : Command} {i : Instr} (h : decode c = .ok i) : i.wellFormed = true :=
  (decode_eq_ok_iff_encode.1 h).1

/-- Outside ERROR a word is rejected for a cause, or is a command the table allows and has its effect (R99, R114). -/
theorem execute_outside_error_cases (c : Command) {s : State} (hs : s.fsm ≠ .error) :
    (∃ k, execute c s = .next { s with
      fsm := .error, errcode := causeCode k, channel := .responding ⟨false, 0⟩ }) ∨
    (∃ i, execute c s = .next (effect i s)) := by
  obtain ⟨i, decoded, run⟩ | ⟨k, rejected, -⟩ := execute_cases c s
  · by_cases allowed : legal i.opcode s.fsm = true
    · exact .inr ⟨i, run.trans (exec_of_legal (wellFormed_of_decode decoded) allowed)⟩
    · exact .inl ⟨.sequence, run.trans (exec_of_not_legal (wellFormed_of_decode decoded) allowed hs)⟩
  · exact .inl ⟨k, execute_of_decode_error_outside_error rejected hs⟩

/-- In ERROR every word, legal or not, is answered (0, 0) and changes nothing else (R117). -/
theorem execute_in_error (c : Command) {s : State} (hs : s.fsm = .error) :
    execute c s = .next { s with channel := .responding ⟨false, 0⟩ } := by
  obtain ⟨i, -, run⟩ | ⟨k, -, run⟩ := execute_cases c s
  · exact run.trans (exec_in_error i hs)
  · exact run.trans (congrArg _ (reject_in_error k s hs))

/-! A step by the ports (R60, R128) -/

@[simp] theorem readyStep_fsm (p : PortIn) (s : State) : (readyStep p s).fsm = s.fsm := by
  unfold readyStep
  split <;> rfl

@[simp] theorem readyStep_errcode (p : PortIn) (s : State) : (readyStep p s).errcode = s.errcode := by
  unfold readyStep
  split <;> rfl

@[simp] theorem respondingStep_fsm (p : PortIn) (r : Response) (s : State) : (respondingStep p r s).fsm = s.fsm := by
  unfold respondingStep
  split <;> rfl

@[simp] theorem respondingStep_errcode (p : PortIn) (r : Response) (s : State) :
    (respondingStep p r s).errcode = s.errcode := by
  unfold respondingStep
  split <;> rfl

theorem step_of_reset {s : State} (asserted : s.portIn.rstN = false) : step s = .next (resetEngine s.tick) :=
  if_pos asserted

/-- With CMD_READY = 1, no reset and a legal ERRCODE, the step accepts what is on offer or idles. -/
theorem step_of_ready {s : State} (ready : s.channel = .ready) (released : s.portIn.rstN = true)
    (legalErrcode : s.errcode.toNat ≤ 3) : step s = .next (readyStep s.portIn s.tick) := by
  have noFault : ¬ reservedErrcode s.tick.errcode = true := by simp [reservedErrcode_of_le legalErrcode]
  have noReset : ¬ s.portIn.rstN = false := by simp [released]
  rw [step, portStep, if_neg noReset, if_neg noFault, channelStep, tick_channel, ready]

/-! Errors -/

/-- Settles O20: the decoder's outcomes come in the order of the causes, and the legality table decides on what
decodes. -/
theorem errorPriority : Obligations.ErrorPriority := by
  refine ⟨fun c s hs => ?_, fun s asserted => ⟨_, step_of_reset asserted, rfl, rfl⟩⟩
  obtain ⟨illegal, e⟩ | ⟨op, hop, reserved, e⟩ | ⟨op, hop, hr, hn, e⟩ := decode_cases c
  · have illegal : (opField c.cmd).toNat = 0 ∨ 5 ≤ (opField c.cmd).toNat :=
      (illegalOp_iff.2 illegal).imp_left (congrArg BitVec.toNat)
    exact ⟨_, execute_of_decode_error_outside_error e hs, fun _ => rfl, (absurd illegal ·), (absurd illegal ·),
      (absurd illegal ·)⟩
  · rw [Opcode.allowsCount_eq_false_iff] at reserved
    rw [hop]
    exact ⟨_, execute_of_decode_error_outside_error e hs, fun illegal => absurd illegal op.code_legal,
      fun _ _ => rfl, fun _ => (absurd reserved ·), fun _ => (absurd reserved ·)⟩
  · have run := execute_of_decode_ok e s
    have wellFormed := wellFormed_of_decode e
    have unreserved : ¬ (rsvdField c.cmd ≠ 0 ∨ op.allowsCount (nbytesField c.cmd) = false) := by simp [hr, hn]
    rw [Opcode.allowsCount_eq_false_iff] at unreserved
    rw [hop]
    cases allowed : legal op s.fsm with
    | true =>
      have placed := mt (legal_eq_false_iff (op := op) hs).2 (by simp [allowed])
      exact ⟨_, run.trans (exec_of_legal wellFormed (by simpa using allowed)),
        fun illegal => absurd illegal op.code_legal, fun _ reserved => absurd reserved unreserved,
        fun _ _ misplaced => absurd misplaced placed, fun _ _ _ => ⟨effect_errcode _ s, effect_fsm_ne_error _ hs⟩⟩
    | false =>
      have misplaced := (legal_eq_false_iff hs).1 allowed
      exact ⟨_, run.trans (exec_of_not_legal wellFormed (by simp [allowed]) hs),
        fun illegal => absurd illegal op.code_legal, fun _ reserved => absurd reserved unreserved,
        fun _ _ _ => rfl, fun _ _ => (absurd misplaced ·)⟩

/-- Settles O21: no effect ends in ERROR, so the command was rejected. -/
theorem errorsArePrecise : Obligations.ErrorsArePrecise := by
  intro c s t hs run ended
  obtain ⟨k, e⟩ | ⟨i, e⟩ := execute_outside_error_cases c hs
  · cases run.symm.trans e
    exact ⟨causeCode_cases k, rfl⟩
  · cases run.symm.trans e
    exact absurd ended (effect_fsm_ne_error i hs)

/-- Settles O22: CMD_READY does not look at STATE, and `execute_in_error` answers every word. -/
theorem errorAnswersEveryWord : Obligations.ErrorAnswersEveryWord := by
  refine fun s hs => ⟨fun ready released offered legalErrcode => ?_, fun c => execute_in_error c hs⟩
  refine ⟨_, step_of_ready (beq_iff_eq.1 ready) released legalErrcode, ?_⟩
  rw [readyStep, if_pos offered]

/-- Settles O23: of the ways a step can go, reset alone writes STATE or ERRCODE in ERROR. -/
theorem onlyResetLeavesError : Obligations.OnlyResetLeavesError := by
  intro s t hs h
  obtain ⟨asserted, rfl⟩ | ⟨released, -, ⟨-, rfl⟩ | ⟨c, -, run⟩ | ⟨r, -, rfl⟩⟩ := portStep_cases h
  · exact .inl ⟨asserted, rfl, rfl⟩
  · exact .inr ⟨released, by simp [hs], by simp⟩
  · cases run.symm.trans (execute_in_error c (s := s.tick) hs)
    exact .inr ⟨released, hs, rfl⟩
  · exact .inr ⟨released, by simp [hs], by simp⟩

/-- Settles O11: LEN is bit-vector addition in the effect of UPDATE, and absorbing bytes writes neither LEN nor STATE
nor ERRCODE. -/
theorem bitLengthWraps : Obligations.BitLengthWraps := by
  intro s n din absorbing hn
  obtain ⟨fsm, errcode, len, -⟩ := absorbBytes_frame s (payloadBytes n.toNat din)
  have run : exec (.update n din) s = .next (absorbPayload n.toNat din s) :=
    exec_of_legal (i := .update n din) (decide_eq_true hn) (legal_update_iff.2 absorbing)
  refine ⟨_, run, fsm.trans absorbing, errcode, rfl, ?_⟩
  simp [absorbPayload, len]

/-! Between commands (R127) -/

theorem step_at_rest {s : State} (ready : s.channel = .ready) (legalErrcode : s.errcode.toNat ≤ 3)
    (released : s.portIn.rstN = true) (noOffer : s.portIn.cmdValid = false) : step s = .next s.tick := by
  rw [step_of_ready ready released legalErrcode, readyStep, if_neg (by simp [noOffer])]

/-- The port values of the coming step are the host's next ones, or past their end those of a host that does nothing. -/
theorem portIn_at_rest {s : State} {k : Nat}
    (rest : ∀ p ∈ s.inputs.take (k + 1), p.rstN = true ∧ p.cmdValid = false) :
    s.portIn.rstN = true ∧ s.portIn.cmdValid = false := by
  unfold State.portIn
  cases inputs : s.inputs with
  | nil => exact ⟨rfl, rfl⟩
  | cons p ports => exact rest p (by simp [inputs])

/-- Settles O34, by induction on the number of steps, each of which uses up its input values and no more. -/
theorem idleEngineHoldsItsState : Obligations.IdleEngineHoldsItsState := by
  intro s k ready legalErrcode rest
  induction k generalizing s with
  | zero => rfl
  | succ k ih =>
    obtain ⟨released, noOffer⟩ := portIn_at_rest rest
    have later : ∀ p ∈ s.tick.inputs.take k, p.rstN = true ∧ p.cmdValid = false := by
      intro p hp
      refine rest p (List.mem_of_mem_tail ?_)
      rwa [List.tail_take_eq_take_tail, Nat.add_sub_cancel]
    calc Host.Core.run core (k + 1) s
      _ = Host.Core.run core k s.tick := run_next (step_at_rest ready legalErrcode released noOffer)
      _ = .next { s.tick with inputs := s.tick.inputs.drop k } := ih s.tick ready legalErrcode later
      _ = .next { s with inputs := s.inputs.drop (k + 1) } := by rw [tick_inputs, List.drop_tail]; rfl

end Sys2Proof.Machine
end

section
/-! PROOFS. The handshake and reset at the ports (spec/30_encoding.md R60, spec/70_reset_and_hazards.md R128, R131, R132,
R140): what the output lines say of the channel, and which input lines a step reads. -/

namespace Sys2Proof.Machine

/-! The lines by the channel (R60) -/

@[simp] theorem cmdReady_eq_true_iff {s : State} : s.cmdReady = true ↔ s.channel = .ready := beq_iff_eq

@[simp] theorem cmdReady_eq_false_iff {s : State} : s.cmdReady = false ↔ s.channel ≠ .ready := beq_eq_false_iff_ne

@[simp] theorem response_eq_some_iff {s : State} {r : Response} : s.response = some r ↔ s.channel = .responding r := by
  cases h : s.channel <;> simp [State.response, h]

@[simp] theorem rspValid_iff {s : State} : s.rspValid = true ↔ ∃ r, s.channel = .responding r := by
  simp [State.rspValid, Option.isSome_iff_exists]

/-! A step of the channel by the lines (R127, R131, R132) -/

theorem readyStep_of_offer {p : PortIn} (offered : p.cmdValid = true) (s : State) :
    readyStep p s = { s with channel := .busy p.command } := if_pos offered

theorem readyStep_of_no_offer {p : PortIn} (noOffer : p.cmdValid = false) (s : State) : readyStep p s = s :=
  if_neg (by simp [noOffer])

theorem respondingStep_of_take {p : PortIn} (takes : p.rspReady = true) (r : Response) (s : State) :
    respondingStep p r s = { s with channel := .ready, received := s.received ++ [r] } := if_pos takes

theorem respondingStep_of_hold {p : PortIn} (held : p.rspReady = false) (r : Response) (s : State) :
    respondingStep p r s = s := if_neg (by simp [held])

/-- Where no command is accepted, RSP_READY is the one line a step without reset reads. -/
theorem channelStep_congr {p q : PortIn} {s : State} (sameReady : p.rspReady = q.rspReady)
    (noAcceptance : s.channel ≠ .ready ∨ (p.cmdValid = false ∧ q.cmdValid = false)) :
    channelStep p s = channelStep q s := by
  unfold channelStep
  cases channel : s.channel with
  | ready =>
    obtain ⟨hp, hq⟩ := noAcceptance.resolve_left (not_not.2 channel)
    simp only [readyStep_of_no_offer hp, readyStep_of_no_offer hq]
  | busy c => rfl
  | responding r => simp only [respondingStep, sameReady]

/-! Executing beside the ports (R59, R112) -/

/-- An executing command offers its response (R59). -/
theorem execute_responds {c : Command} {s t : State} (run : execute c s = .next t) :
    ∃ r, t.channel = .responding r := by
  obtain ⟨t', r, run', response, -⟩ := everyCommandGetsOneResponse c s
  cases run.symm.trans run'
  exact ⟨r, response⟩

theorem effect_received (i : Instr) (s : State) : (effect i s).received = s.received :=
  congrArg (·.received) (effect_withPorts s s.channel s.inputs s.received i)

/-- Executing a command hands the host nothing. -/
theorem execute_received {c : Command} {s t : State} (run : execute c s = .next t) : t.received = s.received := by
  by_cases hs : s.fsm = .error
  · cases run.symm.trans (execute_in_error c hs)
    rfl
  · obtain ⟨k, e⟩ | ⟨i, e⟩ := execute_outside_error_cases c hs
    · cases run.symm.trans e
      rfl
    · cases run.symm.trans e
      exact effect_received i s

/-- Settles O31: the three places the channel can stand at in a step without reset; a response is taken in one of them
alone. -/
theorem handshakeHoldsOneCommand : Obligations.HandshakeHoldsOneCommand := by
  intro s t released h
  obtain ⟨asserted, -⟩ | ⟨-, -, ⟨ready, rfl⟩ | ⟨c, busy, run⟩ | ⟨r, responding, rfl⟩⟩ := portStep_cases h
  · simp [released] at asserted
  · rw [tick_channel] at ready
    refine ⟨fun _ offered => ?_, fun _ noOffer => readyStep_of_no_offer noOffer _, by simp [ready]⟩
    simp [readyStep_of_offer offered]
  · rw [tick_channel] at busy
    obtain ⟨r, response⟩ := execute_responds run
    refine ⟨by simp [busy], by simp [busy], fun _ => ⟨by simp [busy, response], by simp [response], fun _ => ?_⟩⟩
    exact execute_received (s := s.tick) run
  · rw [tick_channel] at responding
    refine ⟨by simp [responding], by simp [responding], fun _ => ?_⟩
    cases takes : s.portIn.rspReady with
    | true => simp [respondingStep_of_take takes, responding]
    | false => simp [respondingStep_of_hold takes, responding]

/-- Settles O32: acceptance samples the lines of its own step; elsewhere `channelStep_congr` applies. -/
theorem commandLinesAreIgnoredOtherwise : Obligations.CommandLinesAreIgnoredOtherwise := by
  refine ⟨fun p s t released offered ready h => ?_, fun p q s sameReset sameReady noAcceptance => ?_⟩
  · rw [cmdReady_eq_true_iff] at ready
    obtain ⟨asserted, -⟩ | ⟨-, -, ⟨-, rfl⟩ | ⟨c, busy, -⟩ | ⟨r, responding, -⟩⟩ := portStep_cases h
    · simp [released] at asserted
    · rw [readyStep_of_offer offered]
    · simp [ready] at busy
    · simp [ready] at responding
  · rw [cmdReady_eq_false_iff] at noAcceptance
    rw [portStep, portStep, sameReset, channelStep_congr sameReady noAcceptance]

/-- STATUS reads 0x00 after a reset (R129). -/
@[simp] theorem resetEngine_status (s : State) : (resetEngine s).status = 0x00 := by
  have atReset : State.reset.status = 0x00 := by decide
  exact atReset

/-- Settles O24: the step of a reset is `resetEngine`, which reads neither the channel nor RSP_READY. -/
theorem resetFromAnyState : Obligations.ResetFromAnyState := by
  intro s asserted
  refine ⟨⟨_, step_of_reset asserted, rfl, rfl, resetEngine_status _, fun _ => rfl, rfl, rfl, fun _ => rfl⟩,
    fun ch _ => ?_⟩
  calc step { s with channel := ch }
    _ = .next (resetEngine { s with channel := ch }.tick) :=
      step_of_reset (s := { s with channel := ch }) asserted
    _ = .next (resetEngine s.tick) := rfl
    _ = step s := (step_of_reset asserted).symm

end Sys2Proof.Machine
end

section
/-! PROOFS. The encoder against the decoder and the opcode table (spec/30_encoding.md R48 to R55): the round trip both
ways, and the rows of the table by the fields of a word. -/

namespace Sys2Proof

/-- Settles O5: a well-formed command meets the characterisation of what decodes by the encoder, with its own word and
payload. -/
theorem decodeOfEncode : Obligations.DecodeOfEncode :=
  fun _ wellFormed => decode_eq_ok_iff_encode.2 ⟨wellFormed, rfl, fun _ => rfl⟩

/-- Settles O6: the same characterisation, read in the other direction. -/
theorem encodeOfDecode : Obligations.EncodeOfDecode := by
  intro c i decoded
  obtain ⟨wellFormed, word, payload⟩ := decode_eq_ok_iff_encode.1 decoded
  exact ⟨wellFormed, word.symm, fun isUpdate => (payload isUpdate).symm⟩

/-! The rows of the opcode table (R52) -/

/-- A row's fixed bits: its opcode, RSVD 0, and NBYTES 0 where the row is not UPDATE's. -/
theorem matchesWord_iff {r : OpcodeRow} (hr : r ∈ opcodeTable) {w : CmdWord} :
    r.matchesWord w = true ↔ opField w = r.op.code ∧ rsvdField w = 0 ∧ (r.op = .update ∨ nbytesField w = 0) := by
  have wholeWord {p : CmdWord} {o : BitVec 4} (hp : p = packFields 0 0 o) :
      w &&& 0xFFFF = p ↔ opField w = o ∧ rsvdField w = 0 ∧ nbytesField w = 0 := by
    rw [show w &&& 0xFFFF = w from BitVec.and_allOnes, hp, eq_packFields_iff]
  simp only [opcodeTable, List.mem_cons, List.not_mem_nil, or_false] at hr
  rw [OpcodeRow.matchesWord, beq_iff_eq]
  obtain rfl | rfl | rfl | rfl := hr
  · simpa [Opcode.code] using wholeWord (show 0x0001 = packFields 0 0 1 by decide)
  · simpa [Opcode.code] using and_updateMask_eq_iff (w := w)
  · simpa [Opcode.code] using wholeWord (show 0x0003 = packFields 0 0 3 by decide)
  · simpa [Opcode.code] using wholeWord (show 0x0004 = packFields 0 0 4 by decide)

theorem exists_row (op : Opcode) : ∃ r ∈ opcodeTable, r.op = op := by cases op <;> decide

/-- An opcode has one row. -/
theorem row_eq_of_op_eq : ∀ r ∈ opcodeTable, ∀ r' ∈ opcodeTable, r'.op = r.op → r' = r := by decide

theorem allowsCount_of_row {op : Opcode} {n : BitVec 7} (fixed : op = .update ∨ n = 0)
    (small : op = .update → n.toNat ≤ 64) : op.allowsCount n = true := by
  obtain rfl | rfl := fixed
  · exact decide_eq_true (small rfl)
  · cases op <;> rfl

theorem row_of_allowsCount {op : Opcode} {n : BitVec 7} (h : op.allowsCount n = true) : op = .update ∨ n = 0 := by
  cases op with
  | update => exact .inl rfl
  | init | final | read => exact .inr (beq_iff_eq.1 h)

/-- Settles O4: a row fixes the fields the decoder looks at, and OP alone names the row. -/
theorem opcodeRowsDoNotOverlap : Obligations.OpcodeRowsDoNotOverlap := by
  refine ⟨fun r hr c matched small => ?_, fun c i decoded => ?_⟩
  · obtain ⟨hop, hrsvd, fixed⟩ := (matchesWord_iff hr).1 matched
    exact ⟨_, decode_command hop hrsvd (allowsCount_of_row fixed small), Opcode.opcode_instr ..⟩
  · obtain ⟨hop, hrsvd, allowed, -⟩ := decode_eq_ok_iff.1 decoded
    obtain ⟨r, hr, hi⟩ := exists_row i.opcode
    refine ⟨r, hr, hi, (matchesWord_iff hr).2 ?_, fun r' hr' matched => row_eq_of_op_eq r hr r' hr' ?_⟩
    · rw [hi]
      exact ⟨hop, hrsvd, row_of_allowsCount allowed⟩
    · obtain ⟨hop', -⟩ := (matchesWord_iff hr').1 matched
      exact hi ▸ Opcode.code_injective (hop'.symm.trans hop)

/-- Settles O1: each sample by the lemma for its outcome. -/
theorem sampleWordsDecode : Obligations.SampleWordsDecode := by
  intro din
  refine ⟨decode_eq_init_iff.2 rfl, ?update0, ?update3, ?update55, ?update64, decode_eq_final_iff.2 rfl,
    decode_eq_read_iff.2 rfl, ?count65, ?rsvd, ?op0, ?op5⟩
  case update0 | update3 | update55 | update64 => exact decode_eq_update_iff.2 ⟨by decide, rfl, rfl⟩
  case count65 =>
    have tooMany : Opcode.update.allowsCount (nbytesField 0x0412) = false := by decide
    exact decode_reservedField (op := .update) (show opField 0x0412 = 2 by decide) (.inr tooMany)
  case rsvd =>
    exact decode_reservedField (op := .update) (show opField 0x8002 = 2 by decide)
      (.inl (show rsvdField 0x8002 ≠ 0 by decide))
  case op0 => exact decode_illegalOpcode (show (opField 0x0000).toNat ∉ [1, 2, 3, 4] by decide)
  case op5 => exact decode_illegalOpcode (show (opField 0x8005).toNat ∉ [1, 2, 3, 4] by decide)

end Sys2Proof
end

section
/-! PROOFS. Word and length arithmetic: the rotation (spec/00_scope.md R10), the trailer value (spec/41_padding.md R68)
and the round constants (spec/42_compression.md R82). -/

namespace Sys2Proof.Machine

/-- A bit of a rotated word: of the shifted-up part at and above the amount, of the part shifted around below it. -/
theorem getLsbD_rotl32 (x : Word) {s j : Nat} (hs : s ≤ 31) (hj : j < 32) :
    (rotl32 x s).getLsbD j = if s ≤ j then x.getLsbD (j - s) else x.getLsbD (32 - s + j) := by
  rw [rotl32, BitVec.getLsbD_or, BitVec.getLsbD_shiftLeft, BitVec.getLsbD_ushiftRight]
  by_cases up : s ≤ j
  · have outside : x.getLsbD (32 - s + j) = false := BitVec.getLsbD_of_ge x _ (by omega)
    simp [hj, up, outside]
  · simp [up]

/-- Settles O42: bit k + s is in the part shifted up, or 32 below it in the part shifted around. -/
theorem rotationMovesBits : Obligations.RotationMovesBits := by
  intro x s k low high hk
  rw [getLsbD_rotl32 x high (Nat.mod_lt _ (by decide))]
  by_cases inside : k + s < 32
  · rw [Nat.mod_eq_of_lt inside, if_pos (by omega), Nat.add_sub_cancel]
  · have around : (k + s) % 32 = k + s - 32 := by omega
    rw [around, if_neg (by omega), show 32 - s + (k + s - 32) = k by omega]

/-- The trailer as a number (R68). -/
theorem bitLength_toNat (msg : List Byte) : (bitLength msg).toNat = 8 * msg.length % 2 ^ 64 := BitVec.toNat_ofNat ..

/-- Settles O40: 8 divides the modulus 2^64, so it cancels and leaves 2^61. -/
theorem trailerWraps : Obligations.TrailerWraps := by
  intro msg msg'
  refine ⟨bitLength_toNat msg, ?_⟩
  rw [← BitVec.toNat_inj, bitLength_toNat, bitLength_toNat]
  omega

/-- Settles O59: both lists are written out. -/
theorem roundConstantsAreTheTable : Obligations.RoundConstantsAreTheTable := by
  unfold Obligations.RoundConstantsAreTheTable
  rfl

end Sys2Proof.Machine
end

section
/-! PROOFS. What executing writes (spec/44_commands.md R99 to R112): a command is rejected or has its effect, and each
has its frame, its next STATE, and for UPDATE its closed form. -/

namespace Sys2Proof.Machine

/-- What `exec` does: the command is rejected, or it is well formed, the legality table allows it, and it has its
effect. -/
theorem exec_effect_cases {i : Instr} {s t : State} (run : exec i s = .next t) :
    (∃ k, t = reject k s) ∨ (i.wellFormed = true ∧ legal i.opcode s.fsm = true ∧ t = effect i s) := by
  obtain rejected | ⟨allowed, ⟨rfl, rfl⟩ | ⟨n, din, rfl, small, rfl⟩ | ⟨rfl, rfl⟩ | ⟨rfl, rfl⟩⟩ := exec_cases run
  · exact .inl rejected
  · exact .inr ⟨rfl, allowed, rfl⟩
  · exact .inr ⟨decide_eq_true small, allowed, rfl⟩
  · exact .inr ⟨rfl, allowed, rfl⟩
  · exact .inr ⟨rfl, allowed, rfl⟩

/-- What `execute` does with a word: it is rejected, or it decodes to a command that the table allows and that has its
effect. -/
theorem execute_effect_cases {c : Command} {s t : State} (run : execute c s = .next t) :
    (∃ k, t = reject k s) ∨ ∃ i, decode c = .ok i ∧ legal i.opcode s.fsm = true ∧ t = effect i s := by
  obtain ⟨i, decoded, e⟩ | ⟨k, -, e⟩ := execute_cases c s
  · obtain rejected | ⟨-, allowed, effected⟩ := exec_effect_cases (e.symm.trans run)
    · exact .inl rejected
    · exact .inr ⟨i, decoded, allowed, effected⟩
  · cases e.symm.trans run
    exact .inl ⟨k, rfl⟩

theorem ne_error_of_legal {op : Opcode} {f : Fsm} (allowed : legal op f = true) : f ≠ .error := by
  rintro rfl
  simp at allowed

/-! The next STATE (R107) -/

@[simp] theorem effect_init_fsm (s : State) : (effect .init s).fsm = .absorb := rfl

@[simp] theorem effect_update_fsm (n : BitVec 7) (din : Payload) (s : State) :
    (effect (.update n din) s).fsm = s.fsm := by
  simp [effect, absorbPayload, absorbBytes_frame]

@[simp] theorem effect_final_fsm (s : State) : (effect .final s).fsm = .done := rfl

@[simp] theorem effect_read_fsm (s : State) : (effect .read s).fsm = s.fsm := rfl

/-- A decoded command goes to its effect's STATE where the table allows it, and to ERROR elsewhere. -/
theorem execute_fsm {c : Command} {i : Instr} {s t : State} (decoded : decode c = .ok i)
    (run : execute c s = .next t) : t.fsm = if legal i.opcode s.fsm = true then (effect i s).fsm else .error := by
  cases ((execute_of_decode_ok decoded s).trans (exec_of_wellFormed (wellFormed_of_decode decoded) s)).symm.trans run
  obtain ⟨allowed, e⟩ | ⟨refused, e⟩ := whenLegal_cases i.opcode s (effect i)
  · rw [e, if_pos allowed]
  · rw [e, if_neg (by simp [refused]), reject_fsm]

/-- Settles O15: the table's row for each command, with the STATE its effect leads to. -/
theorem transitionTable : Obligations.TransitionTable := by
  intro c s t run
  refine ⟨fun inError => ?_, fun _ ⟨k, rejected⟩ => ?_, fun decoded => ?_, fun n din decoded => ?_, fun decoded => ?_,
    fun decoded => ?_⟩
  · cases run.symm.trans (execute_in_error c inError)
    exact inError
  · cases run.symm.trans (execute_of_decode_error rejected s)
    exact reject_fsm k s
  · simpa [Instr.opcode] using execute_fsm decoded run
  · by_cases absorbing : s.fsm = .absorb <;> simpa [Instr.opcode, absorbing] using execute_fsm decoded run
  · simpa [Instr.opcode] using execute_fsm decoded run
  · by_cases done : s.fsm = .done <;> simpa [Instr.opcode, done] using execute_fsm decoded run

/-! Frames (R112) -/

theorem effect_inputs (i : Instr) (s : State) : (effect i s).inputs = s.inputs :=
  congrArg (·.inputs) (effect_withPorts s s.channel s.inputs s.received i)

theorem exec_inputs {i : Instr} {s t : State} (run : exec i s = .next t) : t.inputs = s.inputs := by
  obtain ⟨k, rfl⟩ | ⟨-, -, rfl⟩ := exec_effect_cases run
  · exact reject_inputs k s
  · exact effect_inputs i s

theorem exec_received {i : Instr} {s t : State} (run : exec i s = .next t) : t.received = s.received := by
  obtain ⟨k, rfl⟩ | ⟨-, -, rfl⟩ := exec_effect_cases run
  · exact reject_received k s
  · exact effect_received i s

/-- DIGEST is written by FINAL alone (R27). -/
theorem effect_digest {i : Instr} (notFinal : i ≠ .final) (s : State) : (effect i s).digest = s.digest := by
  cases i with
  | init | read => rfl
  | update n din => simp [effect, absorbPayload, absorbBytes_frame]
  | final => exact absurd rfl notFinal

/-- Settles O16: a command that does not end in ERROR had its effect, and one that does was rejected. -/
theorem whatCommandsDoNotWrite : Obligations.WhatCommandsDoNotWrite := by
  intro i s t run
  refine ⟨exec_inputs run, exec_received run, ?_, ?_, ?_⟩
  · intro notError
    obtain ⟨k, rfl⟩ | ⟨-, -, rfl⟩ := exec_effect_cases run
    · exact absurd (reject_fsm k s) notError
    · refine ⟨effect_errcode i s, ?_, ?_, ?_⟩
      · rintro rfl
        exact ⟨rfl, rfl, rfl, rfl⟩
      · rintro n din rfl
        exact ⟨effect_digest (i := .update n din) nofun s, effect_update_fsm n din s⟩
      · rintro rfl
        rfl
  · intro ended hs
    obtain ⟨k, rfl⟩ | ⟨-, -, rfl⟩ := exec_effect_cases run
    · rw [reject_outside_error k s hs]
      rfl
    · exact absurd ended (effect_fsm_ne_error i hs)
  · intro inError
    cases run.symm.trans (exec_in_error i inError)
    rfl

/-! UPDATE in closed form (R102, R103) -/

theorem exec_update_of_absorb {n : BitVec 7} {s : State} (absorbing : s.fsm = .absorb) (small : n.toNat ≤ 64)
    (din : Payload) : exec (.update n din) s = .next (absorbPayload n.toNat din s) :=
  exec_of_legal (i := .update n din) (decide_eq_true small) (legal_update_iff.2 absorbing)

/-- Settles O9: the effect of UPDATE is `absorbBytes_spec` for the payload's bytes, LEN, and the response. -/
theorem updateAbsorbsItsBytes : Obligations.UpdateAbsorbsItsBytes := by
  intro s n din
  refine ⟨fun small => decode_eq_update_iff.2 ⟨small, rfl, rfl⟩,
    fun c hop reserved => decode_reservedField (op := .update) hop (.inl reserved), fun absorbing small => ?executes,
    fun misplaced small => ?sequence, fun outside large => ?reserved, exec_in_error _⟩
  case executes =>
    set bytes := payloadBytes n.toNat din with bytesDef
    have length : bytes.length = n.toNat := payloadBytes_length n.toNat din
    have byte {j : Nat} (hj : j < bytes.length) : bytes[j] = byteOf din j := by simp [bytesDef, payloadBytes, bytesLe]
    obtain ⟨fsm, errcode, len, digest, -, inputs, received⟩ := absorbBytes_frame s bytes
    obtain ⟨buf, below, filled⟩ := absorbBytes_spec bytes s (by omega)
    rw [length] at below filled
    refine ⟨_, exec_update_of_absorb absorbing small din, congrArg (· + _) len,
      fun k hk => ⟨fun j hj position => ?_, fun others => ?_⟩, below, filled, fsm, errcode, digest, inputs,
      received, rfl⟩
    · have hj : j < bytes.length := by omega
      exact ((buf k hk).1 j hj position).trans (byte hj)
    · exact (buf k hk).2 fun j hj => others j (by omega)
  case sequence =>
    obtain h | h := misplaced <;>
      exact exec_of_not_legal (decide_eq_true small) (by simp [Instr.opcode, h]) (by simp [h])
  case reserved =>
    have run : exec (.update n din) s = .next (reject .reservedField s) := if_pos large
    rw [run, reject_outside_error _ s outside]
    rfl

end Sys2Proof.Machine
end

section
/-! PROOFS. One step by the channel (spec/30_encoding.md R60, spec/70_reset_and_hazards.md R128, R139): a command in
flight runs, STATUS and DIGEST change only there, and what the model chooses for reset. -/

namespace Sys2Proof.Machine

/-! A command in flight (R99) -/

/-- With a command in flight, no reset and a legal ERRCODE, the step executes it. -/
theorem step_of_busy {s : State} {c : Command} (busy : s.channel = .busy c) (released : s.portIn.rstN = true)
    (legalErrcode : s.errcode.toNat ≤ 3) : step s = execute c s.tick := by
  have noFault : ¬ reservedErrcode s.tick.errcode = true := by simp [reservedErrcode_of_le legalErrcode]
  have noReset : ¬ s.portIn.rstN = false := by simp [released]
  rw [step, portStep, if_neg noReset, if_neg noFault, channelStep, tick_channel, busy]

/-- Settles O29: the step is `execute`, whose two cases are the decoder's. -/
theorem stepRunsTheDecodedCommand : Obligations.StepRunsTheDecodedCommand := by
  intro s c busy released legalErrcode
  rw [step_of_busy busy released legalErrcode]
  exact ⟨fun i decoded => execute_of_decode_ok decoded _, fun k rejected => execute_of_decode_error rejected _⟩

theorem decodeTableWord_eq_some_iff {nbits w : Nat} {i : Instr} :
    decodeTableWord nbits w = some i ↔ decode (commandOfBits nbits w) = .ok i := by
  unfold decodeTableWord
  cases decode (commandOfBits nbits w) <;> simp

/-- Settles O30: the placed command is in flight, and the idle host step in front of it is the one used up. -/
theorem placedCommandRunsNext : Obligations.PlacedCommandRunsNext := by
  intro s nbits w i legalErrcode decoded
  exact (stepRunsTheDecodedCommand (s.withFetchWord nbits w) _ rfl rfl legalErrcode).1 i
    (decodeTableWord_eq_some_iff.1 decoded)

/-- Executing a word always answers a next state, with a response on offer. -/
theorem execute_completes (c : Command) (s : State) : ∃ t, execute c s = .next t ∧ t.rspValid = true := by
  obtain ⟨t, r, run, response, -⟩ := everyCommandGetsOneResponse c s
  exact ⟨t, run, rspValid_iff.2 ⟨r, response⟩⟩

/-- Settles O33: the step is `execute`, which completes. -/
theorem acceptedCommandCompletes : Obligations.AcceptedCommandCompletes := by
  intro s c busy released legalErrcode
  obtain ⟨t, run, valid⟩ := execute_completes c s.tick
  exact ⟨t, (step_of_busy busy released legalErrcode).trans run, run, valid⟩

/-! STATUS and DIGEST -/

/-- STATUS is STATE and ERRCODE and nothing else (R23). -/
theorem status_congr {s t : State} (fsm : s.fsm = t.fsm) (errcode : s.errcode = t.errcode) : s.status = t.status := by
  rw [State.status, State.status, fsm, errcode]

/-- Settles O28: accepting and responding write neither STATE nor ERRCODE, and executing offers a response. -/
theorem statusChangesAtCompletion : Obligations.StatusChangesAtCompletion := by
  intro s t released h
  obtain ⟨asserted, -⟩ | ⟨-, -, ⟨ready, rfl⟩ | ⟨c, busy, run⟩ | ⟨r, responding, rfl⟩⟩ := portStep_cases h
  · simp [released] at asserted
  · rw [tick_channel] at ready
    exact ⟨fun _ => status_congr (readyStep_fsm _ _) (readyStep_errcode _ _), by simp [ready]⟩
  · rw [tick_channel] at busy
    refine ⟨fun idle => absurd busy (idle c), fun _ => ⟨?_, rspValid_iff.2 (execute_responds run)⟩⟩
    simp [State.rspValid, State.response, busy]
  · rw [tick_channel] at responding
    exact ⟨fun _ => status_congr (respondingStep_fsm _ _ _) (respondingStep_errcode _ _ _), by simp [responding]⟩

@[simp] theorem readyStep_digest (p : PortIn) (s : State) : (readyStep p s).digest = s.digest := by
  unfold readyStep
  split <;> rfl

@[simp] theorem respondingStep_digest (p : PortIn) (r : Response) (s : State) :
    (respondingStep p r s).digest = s.digest := by
  unfold respondingStep
  split <;> rfl

/-- Settles O50: of the ways a step can go without reset, an executing FINAL alone writes DIGEST. -/
theorem onlyFinalWritesTheDigest : Obligations.OnlyFinalWritesTheDigest := by
  intro s t h changed
  obtain ⟨asserted, -⟩ | ⟨-, -, ⟨-, rfl⟩ | ⟨c, busy, run⟩ | ⟨r, -, rfl⟩⟩ := portStep_cases h
  · exact .inl asserted
  · exact absurd (readyStep_digest _ _) changed
  · obtain ⟨k, rfl⟩ | ⟨i, decoded, allowed, rfl⟩ := execute_effect_cases run
    · exact absurd (reject_digest k _) changed
    · by_cases isFinal : i = .final
      · subst isFinal
        exact .inr ⟨c, busy, decoded, legal_final_iff.1 allowed⟩
      · exact absurd (effect_digest isFinal _) changed
  · exact absurd (respondingStep_digest _ _ _) changed

/-! Reset -/

/-- Settles O26: the fields of `State.reset`. -/
theorem resetStatus : Obligations.ResetStatus := ⟨rfl, rfl, resetEngine_status .reset, rfl, rfl⟩

/-- Settles O25: `resetEngine` writes these values and does not read the channel. -/
theorem resetValuesTheModelChooses : Obligations.ResetValuesTheModelChooses := by
  intro s asserted
  refine ⟨⟨_, step_of_reset asserted, rfl, rfl, rfl, rfl, rfl, rfl, rfl, rfl, rfl⟩, fun ch => ?_⟩
  calc step { s with channel := ch }
    _ = .next (resetEngine s.tick) := step_of_reset (s := { s with channel := ch }) asserted
    _ = step s := (step_of_reset asserted).symm

end Sys2Proof.Machine
end

section
/-! PROOFS. The invariant of the reachable states (spec/10_state.md R22, R33): it holds at reset, every rejection and
every effect keeps it, and so does every step; under it no step stops. -/

namespace Sys2Proof.Machine

/-! The absorbed message -/

/-- Settles O45: the effect of UPDATE, where the table allows it. -/
theorem updateExtendsTheMessage : Obligations.UpdateExtendsTheMessage :=
  fun _ _ _ din absorbed small =>
    ⟨_, exec_update_of_absorb absorbed.absorbing small din, absorbed_absorbPayload absorbed small din⟩

/-- Settles O46: the effect of FINAL, where the table allows it. -/
theorem finalDigestsTheMessage : Obligations.FinalDigestsTheMessage :=
  fun _ _ absorbed =>
    ⟨_, exec_of_legal (i := .final) rfl (legal_final_iff.2 absorbed.absorbing), finished_finishComputation absorbed⟩

/-- In ABSORB after the effect of a command, some message has been absorbed (R33 item 1). -/
theorem absorbed_effect {i : Instr} {s : State} (inv : Inv s) (wellFormed : i.wellFormed = true)
    (allowed : legal i.opcode s.fsm = true) (absorbing : (effect i s).fsm = .absorb) :
    ∃ msg, Absorbed msg (effect i s) := by
  cases i with
  | init => exact ⟨[], absorbed_startComputation s⟩
  | update n din =>
    obtain ⟨msg, absorbed⟩ := inv.absorbed (legal_update_iff.1 allowed)
    exact ⟨_, absorbed_absorbPayload absorbed (of_decide_eq_true wellFormed) din⟩
  | final => cases absorbing
  | read => cases (legal_read_iff.1 allowed).symm.trans absorbing

/-- In DONE after the effect of a command, DIGEST is the digest of some message (R33 item 2). -/
theorem finished_effect {i : Instr} {s : State} (inv : Inv s) (allowed : legal i.opcode s.fsm = true)
    (done : (effect i s).fsm = .done) : ∃ msg, Finished msg (effect i s) := by
  cases i with
  | init => cases done
  | update n din => cases (legal_update_iff.1 allowed).symm.trans ((effect_update_fsm n din s).symm.trans done)
  | final =>
    obtain ⟨msg, absorbed⟩ := inv.absorbed (legal_final_iff.1 allowed)
    exact ⟨msg, finished_finishComputation absorbed⟩
  | read =>
    obtain ⟨msg, finished⟩ := inv.finished done
    exact ⟨msg, done, finished.digest⟩

/-! The invariant -/

/-- The ports' side is free, as long as its responses are well formed. -/
theorem Inv.withPorts {s : State} (inv : Inv s) {ch : Channel} {received : List Response} (inputs : List PortIn)
    (offered : ∀ r, ch = .responding r → r.wf) (taken : ∀ r ∈ received, r.wf) :
    Inv (s.withPorts ch inputs received) where
  errcodeLegal := inv.errcodeLegal
  errorCause := inv.errorCause
  absorbed absorbing := by
    obtain ⟨msg, -, digestState, count, bitLen, tail⟩ := inv.absorbed absorbing
    exact ⟨msg, absorbing, digestState, count, bitLen, tail⟩
  finished done := by
    obtain ⟨msg, -, digest⟩ := inv.finished done
    exact ⟨msg, done, digest⟩
  offered r response := offered r (response_eq_some_iff.1 response)
  taken := taken

theorem Inv.offered_of_responding {s : State} (inv : Inv s) {r : Response} (responding : s.channel = .responding r) :
    r.wf := inv.offered r (response_eq_some_iff.2 responding)

theorem causeCode_le (k : Cause) : (causeCode k).toNat ≤ 3 := by cases k <;> decide

theorem causeCode_ne_zero (k : Cause) : causeCode k ≠ 0 := by cases k <;> decide

theorem rejection_wf : Response.wf ⟨false, 0⟩ := fun _ => rfl

theorem inv_reset : Inv State.reset where
  errcodeLegal := by decide
  errorCause := by decide
  absorbed := nofun
  finished := nofun
  offered := nofun
  taken := nofun

/-- Settles O47: in IDLE with no response the invariant asks for ERRCODE 0 alone. -/
theorem invariantAtReset : Obligations.InvariantAtReset := inv_reset

theorem Inv.tick {s : State} (inv : Inv s) : Inv s.tick :=
  inv.withPorts s.inputs.tail (fun _ => inv.offered_of_responding) inv.taken

theorem Inv.resetEngine {s : State} (inv : Inv s) : Inv (resetEngine s) :=
  { inv_reset with absorbed := nofun, finished := nofun, taken := inv.taken }

theorem Inv.reject {s : State} (inv : Inv s) (k : Cause) : Inv (reject k s) := by
  obtain ⟨-, e⟩ | ⟨-, e⟩ := reject_cases k s
  · rw [e]
    exact inv.withPorts s.inputs (by rintro r ⟨⟩; exact rejection_wf) inv.taken
  · rw [e]
    exact {
      errcodeLegal := causeCode_le k
      errorCause := iff_of_true rfl (causeCode_ne_zero k)
      absorbed := nofun
      finished := nofun
      offered := by rintro r ⟨⟩; exact rejection_wf
      taken := inv.taken }

theorem Inv.effect {s : State} (inv : Inv s) {i : Instr} (wellFormed : i.wellFormed = true)
    (allowed : legal i.opcode s.fsm = true) : Inv (effect i s) where
  errcodeLegal := by
    rw [effect_errcode]
    exact inv.errcodeLegal
  errorCause := by
    have outside := ne_error_of_legal allowed
    rw [effect_errcode, ← inv.errorCause]
    exact iff_of_false (effect_fsm_ne_error i outside) outside
  absorbed := absorbed_effect inv wellFormed allowed
  finished := finished_effect inv allowed
  offered r response := by
    obtain ⟨data, executed⟩ := effect_channel i s
    cases executed.symm.trans (response_eq_some_iff.1 response)
    exact nofun
  taken := by
    rw [effect_received]
    exact inv.taken

theorem Inv.execute {s t : State} (inv : Inv s) {c : Command} (run : execute c s = .next t) : Inv t := by
  obtain ⟨k, rfl⟩ | ⟨i, decoded, allowed, rfl⟩ := execute_effect_cases run
  · exact inv.reject k
  · exact inv.effect (wellFormed_of_decode decoded) allowed

theorem Inv.readyStep {s : State} (inv : Inv s) (p : PortIn) : Inv (readyStep p s) := by
  cases offer : p.cmdValid with
  | true =>
    rw [readyStep_of_offer offer]
    exact inv.withPorts s.inputs nofun inv.taken
  | false =>
    rw [readyStep_of_no_offer offer]
    exact inv

theorem Inv.respondingStep {s : State} (inv : Inv s) {r : Response} (responding : s.channel = .responding r)
    (p : PortIn) : Inv (respondingStep p r s) := by
  cases takes : p.rspReady with
  | true =>
    rw [respondingStep_of_take takes]
    refine inv.withPorts s.inputs nofun fun q hq => ?_
    obtain earlier | now := List.mem_append.1 hq
    · exact inv.taken q earlier
    · exact List.mem_singleton.1 now ▸ inv.offered_of_responding responding
  | false =>
    rw [respondingStep_of_hold takes]
    exact inv

/-- Settles O48: each of the ways a step can go keeps the invariant. -/
theorem stepKeepsTheInvariant : Obligations.StepKeepsTheInvariant := by
  intro s t inv h
  obtain ⟨-, rfl⟩ | ⟨-, -, ⟨-, rfl⟩ | ⟨c, -, run⟩ | ⟨r, responding, rfl⟩⟩ := portStep_cases h
  · exact inv.tick.resetEngine
  · exact inv.tick.readyStep _
  · exact inv.tick.execute run
  · exact inv.tick.respondingStep responding _

/-- Without a reserved ERRCODE a step answers a next state: no command stops (R113). -/
theorem step_next {s : State} (legalErrcode : s.errcode.toNat ≤ 3) : ∃ t, step s = .next t := by
  have noFault : ¬ reservedErrcode s.tick.errcode = true := by simp [reservedErrcode_of_le legalErrcode]
  by_cases asserted : s.portIn.rstN = false
  · exact ⟨_, step_of_reset asserted⟩
  · rw [step, portStep, if_neg asserted, if_neg noFault, channelStep]
    cases s.tick.channel with
    | ready | responding r => exact ⟨_, rfl⟩
    | busy c =>
      obtain ⟨t, run, -⟩ := execute_completes c s.tick
      exact ⟨t, run⟩

/-- Settles O49: the invariant keeps ERRCODE off the reserved codes. -/
theorem noStepStops : Obligations.NoStepStops := fun _ inv => step_next inv.errcodeLegal

end Sys2Proof.Machine
end

section
/-! PROOFS. What the spec leaves open is never observed (spec/10_state.md R31, spec/44_commands.md R111,
spec/93_implementation_defined.md U3 to U6): `SameSpecified` is kept by every way a step can go. -/

namespace Sys2Proof.Machine

namespace SameSpecified

variable {s t : State}

theorem resetEngine (same : SameSpecified s t) : SameSpecified (resetEngine s) (resetEngine t) where
  fsm := rfl
  errcode := rfl
  channel := rfl
  inputs := same.inputs
  received := same.received
  digestState := nofun
  count := nofun
  bitLen := nofun
  tail := nofun
  digest := nofun

/-- ERROR hides every register but STATE and ERRCODE (R114). -/
theorem of_error (inError : s.fsm = .error) (fsm : s.fsm = t.fsm) (errcode : s.errcode = t.errcode)
    (channel : s.channel = t.channel) (inputs : s.inputs = t.inputs) (received : s.received = t.received) :
    SameSpecified s t where
  fsm := fsm
  errcode := errcode
  channel := channel
  inputs := inputs
  received := received
  digestState h := nomatch inError.symm.trans h
  count h := nomatch inError.symm.trans h
  bitLen h := nomatch inError.symm.trans h
  tail h := nomatch inError.symm.trans h
  digest h := nomatch inError.symm.trans h

theorem reject (same : SameSpecified s t) (k : Cause) : SameSpecified (reject k s) (reject k t) := by
  have errcode : (Machine.reject k s).errcode = (Machine.reject k t).errcode := by
    simp only [Machine.reject, ← same.fsm]
    split
    · exact same.errcode
    · rfl
  exact of_error (by simp) (by simp) errcode (by simp) (by simp [same.inputs]) (by simp [same.received])

end SameSpecified

/-- INIT writes everything that ABSORB gives a value, so nothing before it shows but ERRCODE and the host's side
(R111). -/
theorem sameSpecified_startComputation {s t : State} (errcode : s.errcode = t.errcode) (inputs : s.inputs = t.inputs)
    (received : s.received = t.received) : SameSpecified (startComputation s) (startComputation t) where
  fsm := rfl
  errcode := errcode
  channel := rfl
  inputs := inputs
  received := received
  digestState _ := rfl
  count _ := rfl
  bitLen _ := rfl
  tail _ := rfl
  digest := nofun

/-- What absorbing at most 64 bytes leaves in H, BCNT and the tail depends on H, BCNT and the tail before. -/
theorem absorbBytes_congr {s t : State} (digestState : s.H = t.H) (count : s.bcnt = t.bcnt) (tail : s.tail = t.tail)
    {bs : List Byte} (small : bs.length ≤ 64) :
    (absorbBytes s bs).H = (absorbBytes t bs).H ∧ (absorbBytes s bs).bcnt = (absorbBytes t bs).bcnt ∧
      (absorbBytes s bs).tail = (absorbBytes t bs).tail := by
  obtain ⟨-, belowS, filledS⟩ := absorbBytes_spec bs s small
  obtain ⟨-, belowT, filledT⟩ := absorbBytes_spec bs t small
  rw [digestState, count, tail] at belowS filledS
  by_cases full : 64 ≤ t.bcnt.val + bs.length
  · obtain ⟨HS, bcntS, tailS⟩ := filledS full
    obtain ⟨HT, bcntT, tailT⟩ := filledT full
    exact ⟨HS.trans HT.symm, Fin.ext (bcntS.trans bcntT.symm), tailS.trans tailT.symm⟩
  · obtain ⟨HS, -, -, bcntS, tailS⟩ := belowS (by omega)
    obtain ⟨HT, -, -, bcntT, tailT⟩ := belowT (by omega)
    exact ⟨HS.trans HT.symm, Fin.ext (bcntS.trans bcntT.symm), tailS.trans tailT.symm⟩

namespace SameSpecified

variable {s t : State}

theorem absorbPayload (same : SameSpecified s t) (absorbing : s.fsm = .absorb) {n : Nat} (small : n ≤ 64)
    (din : Payload) : SameSpecified (absorbPayload n din s) (absorbPayload n din t) := by
  have length : (payloadBytes n din).length ≤ 64 := by simpa using small
  obtain ⟨H, bcnt, tail⟩ :=
    absorbBytes_congr (same.digestState absorbing) (same.count absorbing) (same.tail absorbing) length
  obtain ⟨fsmS, errcodeS, lenS, digestS, -, inputsS, receivedS⟩ := absorbBytes_frame s (payloadBytes n din)
  obtain ⟨fsmT, errcodeT, lenT, digestT, -, inputsT, receivedT⟩ := absorbBytes_frame t (payloadBytes n din)
  have len : (absorbBytes s (payloadBytes n din)).len = (absorbBytes t (payloadBytes n din)).len := by
    rw [lenS, lenT, same.bitLen absorbing]
  exact {
    fsm := fsmS.trans (same.fsm.trans fsmT.symm)
    errcode := errcodeS.trans (same.errcode.trans errcodeT.symm)
    channel := rfl
    inputs := inputsS.trans (same.inputs.trans inputsT.symm)
    received := receivedS.trans (same.received.trans receivedT.symm)
    digestState := fun _ => H
    count := fun _ => bcnt
    bitLen := fun _ => congrArg (· + BitVec.ofNat 64 (8 * n)) len
    tail := fun _ => tail
    digest := fun done => nomatch absorbing.symm.trans (fsmS.symm.trans done) }

theorem finishComputation (same : SameSpecified s t) (absorbing : s.fsm = .absorb) :
    SameSpecified (finishComputation s) (finishComputation t) := by
  obtain ⟨_, _, _, _, _, finishS⟩ := finishComputation_eq s
  obtain ⟨_, _, _, _, _, finishT⟩ := finishComputation_eq t
  have digest : serialize (foldBlocks s.H (padTail s.tail s.len)) =
      serialize (foldBlocks t.H (padTail t.tail t.len)) := by
    rw [same.digestState absorbing, same.tail absorbing, same.bitLen absorbing]
  rw [finishS, finishT]
  exact {
    fsm := rfl
    errcode := same.errcode
    channel := rfl
    inputs := same.inputs
    received := same.received
    digestState := nofun
    count := nofun
    bitLen := nofun
    tail := nofun
    digest := fun _ => digest }

theorem returnDigest (same : SameSpecified s t) (done : s.fsm = .done) :
    SameSpecified (returnDigest s) (returnDigest t) := by
  have response : (Machine.returnDigest s).channel = (Machine.returnDigest t).channel := by simp [same.digest done]
  exact { same with channel := response }

/-- An effect reads nothing that may differ. -/
theorem effect (same : SameSpecified s t) {i : Instr} (wellFormed : i.wellFormed = true)
    (allowed : legal i.opcode s.fsm = true) : SameSpecified (effect i s) (effect i t) := by
  cases i with
  | init => exact sameSpecified_startComputation same.errcode same.inputs same.received
  | update n din => exact same.absorbPayload (legal_update_iff.1 allowed) (of_decide_eq_true wellFormed) din
  | final => exact same.finishComputation (legal_final_iff.1 allowed)
  | read => exact same.returnDigest (legal_read_iff.1 allowed)

theorem whenLegal (same : SameSpecified s t) {i : Instr} (wellFormed : i.wellFormed = true) :
    SameSpecified (whenLegal i.opcode s (Machine.effect i)) (whenLegal i.opcode t (Machine.effect i)) := by
  simp only [Machine.whenLegal, ← same.fsm]
  split
  · exact same.effect wellFormed ‹_›
  · exact same.reject .sequence

theorem execute (same : SameSpecified s t) (c : Command) :
    sameOutcome SameSpecified (execute c s) (execute c t) := by
  cases decoded : decode c with
  | ok i =>
    have wellFormed := wellFormed_of_decode decoded
    rw [execute_of_decode_ok decoded, execute_of_decode_ok decoded, exec_of_wellFormed wellFormed,
      exec_of_wellFormed wellFormed]
    exact same.whenLegal wellFormed
  | error k =>
    rw [execute_of_decode_error decoded, execute_of_decode_error decoded]
    exact same.reject k

theorem readyStep (same : SameSpecified s t) (p : PortIn) : SameSpecified (readyStep p s) (readyStep p t) := by
  cases offer : p.cmdValid with
  | true =>
    rw [readyStep_of_offer offer, readyStep_of_offer offer]
    exact { same with channel := rfl }
  | false =>
    rw [readyStep_of_no_offer offer, readyStep_of_no_offer offer]
    exact same

theorem respondingStep (same : SameSpecified s t) (p : PortIn) (r : Response) :
    SameSpecified (respondingStep p r s) (respondingStep p r t) := by
  cases takes : p.rspReady with
  | true =>
    rw [respondingStep_of_take takes, respondingStep_of_take takes]
    exact { same with channel := rfl, received := congrArg (· ++ [r]) same.received }
  | false =>
    rw [respondingStep_of_hold takes, respondingStep_of_hold takes]
    exact same

theorem channelStep (same : SameSpecified s t) (p : PortIn) :
    sameOutcome SameSpecified (channelStep p s) (channelStep p t) := by
  unfold Machine.channelStep
  rw [← same.channel]
  cases s.channel with
  | ready => exact same.readyStep p
  | busy c => exact same.execute c
  | responding r => exact same.respondingStep p r

theorem portStep (same : SameSpecified s t) (p : PortIn) :
    sameOutcome SameSpecified (portStep p s) (portStep p t) := by
  unfold Machine.portStep
  rw [← same.errcode]
  split_ifs
  · exact same.resetEngine
  · rfl
  · exact same.channelStep p

theorem tick (same : SameSpecified s t) : SameSpecified s.tick t.tick :=
  { same with inputs := congrArg List.tail same.inputs }

theorem portIn_eq (same : SameSpecified s t) : s.portIn = t.portIn := by
  rw [State.portIn, State.portIn, same.inputs]

theorem step (same : SameSpecified s t) : sameOutcome SameSpecified (step s) (step t) := by
  rw [Machine.step, Machine.step, ← same.portIn_eq]
  exact same.tick.portStep s.portIn

end SameSpecified

/-- Settles O54: the step reads the ports and ERRCODE, which agree, and each way it can go keeps the relation. -/
theorem unspecifiedValuesNeverMatter : Obligations.UnspecifiedValuesNeverMatter := fun _ _ same => same.step

/-- Two outcomes of the same kind, by the kind. -/
theorem sameOutcome_cases {R : State → State → Prop} {x y : Host.Outcome State Fault Refusal}
    (same : sameOutcome R x y) :
    (∃ s t, x = .next s ∧ y = .next t ∧ R s t) ∨ (∃ f, x = .fault f ∧ y = .fault f) ∨
      (∃ r, x = .refused r ∧ y = .refused r) := by
  cases x with
  | next s =>
    cases y with
    | next t => exact .inl ⟨s, t, rfl, rfl, same⟩
    | fault g | refused q => exact same.elim
  | fault f =>
    cases y with
    | fault g => exact .inr (.inl ⟨f, rfl, congrArg _ (Eq.symm same)⟩)
    | next t | refused q => exact same.elim
  | refused r =>
    cases y with
    | refused q => exact .inr (.inr ⟨r, rfl, congrArg _ (Eq.symm same)⟩)
    | next t | fault g => exact same.elim

/-- A relation that every step keeps is kept by runs of any length. -/
theorem sameOutcome_run {R : State → State → Prop} (keeps : ∀ s t, R s t → sameOutcome R (step s) (step t)) (k : Nat)
    {s t : State} (related : R s t) : sameOutcome R (Host.Core.run core k s) (Host.Core.run core k t) := by
  induction k generalizing s t with
  | zero => exact related
  | succ k ih =>
    obtain ⟨s', t', hs, ht, related'⟩ | ⟨f, hs, ht⟩ | ⟨r, hs, ht⟩ := sameOutcome_cases (keeps s t related)
    · rw [run_next hs, run_next ht]
      exact ih related'
    · rw [run_fault hs, run_fault ht]
      rfl
    · rw [run_refused hs, run_refused ht]
      rfl

/-- Settles O55: the step lemma along the run; agreeing states have taken the same responses and read the same
STATUS. -/
theorem runsAgreeOnWhatIsSpecified : Obligations.RunsAgreeOnWhatIsSpecified := by
  intro k s t same
  have runs := sameOutcome_run unspecifiedValuesNeverMatter k same
  refine ⟨runs, fun s' t' hs ht => ?_⟩
  rw [hs, ht] at runs
  exact ⟨runs.received, status_congr runs.fsm runs.errcode⟩

/-- Settles O56: the table allows INIT on both sides, and its effect writes all that could differ. -/
theorem initForgetsThePast : Obligations.InitForgetsThePast := by
  intro s t startS startT errcode inputs received
  rw [exec_of_legal (i := .init) rfl (legal_init_iff.2 startS),
    exec_of_legal (i := .init) rfl (legal_init_iff.2 startT)]
  exact sameSpecified_startComputation errcode inputs received

end Sys2Proof.Machine
end

section
/-! PROOFS. The assembler (spec/30_encoding.md R61, R62): an UPDATE carries its bytes, ABSORB cuts a message into
UPDATEs that carry it, and HASH is a computation over them. -/

namespace Sys2Proof.Machine

/-! One UPDATE (R61) -/

/-- The byte count and payload of an UPDATE that carries these bytes. -/
def chunkOperands (bs : List Byte) : BitVec 7 × Payload := (BitVec.ofNat 7 bs.length, packLe 512 bs)

theorem chunkOperands_count {bs : List Byte} (small : bs.length ≤ 64) : (chunkOperands bs).1.toNat = bs.length := by
  rw [chunkOperands, BitVec.toNat_ofNat, Nat.mod_eq_of_lt (by omega)]

/-- The engine reads back the bytes that were packed. -/
theorem payloadBytes_chunkOperands {bs : List Byte} (small : bs.length ≤ 64) :
    payloadBytes (chunkOperands bs).1.toNat (chunkOperands bs).2 = bs := by
  rw [chunkOperands_count small]
  apply List.ext_getElem (payloadBytes_length _ _)
  intro k _ hk
  have packed := byteOf_packLe 512 bs k (by omega)
  rw [List.getD_eq_getElem _ _ hk] at packed
  simpa [payloadBytes, bytesLe, chunkOperands] using packed

/-! ABSORB (R62) -/

/-- The pieces ABSORB cuts a message into: the full blocks, and the tail if there is one. -/
def chunks (msg : List Byte) : List (List Byte) :=
  (fullBlocks msg).map (fun blk => blk.toList) ++ if msg.length % 64 = 0 then [] else [tailBytes msg]

theorem absorbInstrs_eq (msg : List Byte) : absorbInstrs msg = updates ((chunks msg).map chunkOperands) := by
  have whole : ∀ k ∈ List.range (msg.length / 64),
      chunkUpdate ((msg.drop (64 * k)).take 64) =
        chunkUpdate (toBlock ((msg.drop (64 * k)).take 64)).toList := by
    intro k hk
    have := List.mem_range.1 hk
    rw [toBlock_toList]
    rw [List.length_take, List.length_drop]
    omega
  have asUpdates : updates ((chunks msg).map chunkOperands) = (chunks msg).map chunkUpdate := List.map_map
  rw [absorbInstrs, asUpdates, chunks, List.map_append, fullBlocks, fullCount, List.map_map, List.map_map,
    List.map_congr_left whole, tailBytes, fullCount]
  split <;> rfl

theorem chunks_length_le {msg bs : List Byte} (h : bs ∈ chunks msg) : bs.length ≤ 64 := by
  obtain full | rest := List.mem_append.1 h
  · obtain ⟨blk, -, rfl⟩ := List.mem_map.1 full
    simp
  · split at rest
    · cases rest
    · cases List.mem_singleton.1 rest
      exact (tailBytes_length_lt msg).le

/-- The pieces, one after another, are the message. -/
theorem chunks_flatten (msg : List Byte) : (chunks msg).flatten = msg := by
  have rest : (if msg.length % 64 = 0 then [] else [tailBytes msg]).flatten = tailBytes msg := by
    split
    · have empty : (tailBytes msg).length = 0 := by rwa [tailBytes_length]
      rw [List.eq_nil_of_length_eq_zero empty, List.flatten_nil]
    · exact List.flatten_singleton
  rw [chunks, List.flatten_append, rest, ← List.flatMap_def, fullBlocks_bytes_append_tail]

theorem messageOf_chunks (msg : List Byte) : messageOf ((chunks msg).map chunkOperands) = msg := by
  have carried : ∀ bs ∈ chunks msg, payloadBytes (chunkOperands bs).1.toNat (chunkOperands bs).2 = bs :=
    fun bs h => payloadBytes_chunkOperands (chunks_length_le h)
  rw [messageOf, List.flatMap_map, List.flatMap_def, List.map_congr_left carried, List.map_id', chunks_flatten]

theorem chunkOperands_sizes (msg : List Byte) : ∀ u ∈ (chunks msg).map chunkOperands, u.1.toNat ≤ 64 := by
  intro u hu
  obtain ⟨bs, h, rfl⟩ := List.mem_map.1 hu
  rw [chunkOperands_count (chunks_length_le h)]
  exact chunks_length_le h

/-- The first pieces are whole blocks. -/
theorem chunkOperands_full (msg : List Byte) :
    ∀ u ∈ ((chunks msg).map chunkOperands).take (msg.length / 64), u.1.toNat = 64 := by
  have first : (chunks msg).take (msg.length / 64) = (fullBlocks msg).map (fun blk => blk.toList) := by
    rw [chunks, List.take_left' (by simp)]
  rw [← List.map_take, first]
  intro u hu
  obtain ⟨bs, h, rfl⟩ := List.mem_map.1 hu
  obtain ⟨blk, -, rfl⟩ := List.mem_map.1 h
  rw [chunkOperands_count (by simp), Vector.length_toList]

theorem chunks_length (msg : List Byte) :
    (chunks msg).length = msg.length / 64 + if msg.length % 64 = 0 then 0 else 1 := by
  rw [chunks, List.length_append, List.length_map, fullBlocks_length]
  split <;> rfl

/-- Settles O53: an UPDATE's operands are `chunkOperands` of its bytes, and ABSORB is the UPDATEs of the message's
pieces. -/
theorem assemblerCarriesTheBytes : Obligations.AssemblerCarriesTheBytes := by
  refine ⟨fun bs small => ?_, fun bs large => if_neg (by omega), fun msg => ?_⟩
  · exact ⟨_, _, if_pos small, chunkOperands_count small, fun k hk => byteOf_packLe 512 bs k (by omega)⟩
  · exact ⟨_, absorbInstrs_eq msg, messageOf_chunks msg, chunkOperands_sizes msg, chunkOperands_full msg,
      by rw [List.length_map, chunks_length]⟩

/-! HASH (R62) -/

theorem computation_wellFormed {us : List (BitVec 7 × Payload)} (sizes : ∀ u ∈ us, u.1.toNat ≤ 64) :
    ∀ i ∈ computation us, i.wellFormed = true := by
  intro i hi
  simp only [computation, updates, List.cons_append, List.mem_cons, List.mem_append, List.mem_map, List.not_mem_nil,
    or_false] at hi
  obtain rfl | ⟨u, hu, rfl⟩ | rfl | rfl := hi
  · rfl
  · exact decide_eq_true (sizes u hu)
  · rfl
  · rfl

theorem map_decode_encode {is : List Instr} (wellFormed : ∀ i ∈ is, i.wellFormed = true) :
    (is.map encode).map decode = is.map .ok := by
  rw [List.map_map]
  exact List.map_congr_left fun i hi => decodeOfEncode i (wellFormed i hi)

/-- Settles O52: HASH expands to the computation over the message's pieces, run end to end by
`computationReturnsTheDigest`. -/
theorem hashReturnsTheDigest : Obligations.HashReturnsTheDigest := by
  intro s msg ports rest start ready legalErrcode issues inputs
  have expanded : hashInstrs msg = computation ((chunks msg).map chunkOperands) := by
    rw [hashInstrs, absorbInstrs_eq, computation]
  rw [expanded] at issues
  obtain ⟨t, run, received, done, -, -, inputs⟩ := computationReturnsTheDigest s _ _ ports rest start ready legalErrcode
    (map_decode_encode (computation_wellFormed (chunkOperands_sizes msg))) issues inputs
  rw [messageOf_chunks] at received
  exact ⟨t, _, run, received, fun _ => List.eq_of_mem_replicate, done, inputs⟩

end Sys2Proof.Machine
end

section
/-! PROOFS. Several engines (spec/20_memory.md R47, spec/60_exceptions.md R125): a step of one engine writes that engine
alone, so interleaved steps are each engine's own steps, and steps of two engines commute. -/

namespace Sys2Proof.Machine

variable {n : Nat}

/-- A step of the platform is a step of the named engine, written back in its place. -/
theorem stepAt_eq_next_iff {p q : Platform n} {i : Fin n} :
    p.stepAt i = .next q ↔ ∃ s, step p[i] = .next s ∧ q = p.set i s := by
  unfold Platform.stepAt
  cases step p[i] <;> simp [eq_comm]

theorem runSchedule_nil_eq_next_iff {p q : Platform n} : p.runSchedule [] = .next q ↔ q = p := by
  rw [Platform.runSchedule, Host.Outcome.next.injEq, eq_comm]

theorem runSchedule_cons_eq_next_iff {p q : Platform n} {i : Fin n} {sched : List (Fin n)} :
    p.runSchedule (i :: sched) = .next q ↔ ∃ p', p.stepAt i = .next p' ∧ p'.runSchedule sched = .next q := by
  rw [Platform.runSchedule]
  cases p.stepAt i <;> simp

/-- Settles O57, by induction on the schedule: its first step is one of engine j's own, or leaves j alone. -/
theorem instancesDoNotInteract : Obligations.InstancesDoNotInteract := by
  intro n sched
  induction sched with
  | nil =>
    rintro p q ⟨⟩ j
    rfl
  | cons i sched ih =>
    intro p q run j
    obtain ⟨p', first, later⟩ := runSchedule_cons_eq_next_iff.1 run
    obtain ⟨s, stepped, rfl⟩ := stepAt_eq_next_iff.1 first
    have rest := ih _ q later j
    by_cases own : i = j
    · subst own
      rw [List.count_cons_self, run_next stepped]
      simpa using rest
    · rw [List.count_cons_of_ne own]
      have kept : (p.set i s)[j] = p[j] := Vector.getElem_set_ne _ _ (Fin.val_ne_of_ne own)
      rwa [kept] at rest

/-- Two engines take a step each: both steps start from the states before, and both results are written back. -/
theorem runSchedule_pair_eq_next_iff {p q : Platform n} {i j : Fin n} (distinct : i ≠ j) :
    p.runSchedule [i, j] = .next q ↔
      ∃ s t, step p[i] = .next s ∧ step p[j] = .next t ∧ q = (p.set i s).set j t := by
  have kept (s : State) : (p.set i s)[j.val] = p[j.val] := Vector.getElem_set_ne _ _ (Fin.val_ne_of_ne distinct)
  simp [runSchedule_cons_eq_next_iff, runSchedule_nil_eq_next_iff, stepAt_eq_next_iff, kept]

/-- Settles O58: the two writes are to different places. -/
theorem stepsOfDifferentInstancesCommute : Obligations.StepsOfDifferentInstancesCommute := by
  intro n i j p q distinct run
  obtain ⟨s, t, first, second, rfl⟩ := (runSchedule_pair_eq_next_iff distinct).1 run
  exact (runSchedule_pair_eq_next_iff distinct.symm).2 ⟨t, s, second, first,
    Vector.set_comm _ _ (Fin.val_ne_of_ne distinct)⟩

end Sys2Proof.Machine
end
